-- ==== Sys2Proof/Word.lean ====
section
/-! DEFINITION. The bit-vector types of the block (R13, R16, R94): what the spec treats as bits. -/

namespace Sys2Proof

/-- A 4-bit field or half byte: a register index `x` or `y`, or the row count `n` (R94). -/
abbrev Nibble := BitVec 4

/-- A byte of memory, a general register or a timer (R31, R42, R45), and the immediate `nn` (R94). -/
abbrev Byte := BitVec 8

/-- The 12-bit immediate `nnn` (R94). -/
abbrev Addr12 := BitVec 12

/-- A 16-bit opcode, `pc`, `I` or return address (R13, R35, R39, R40). -/
abbrev Word := BitVec 16

end Sys2Proof
end

