-- ==== Sys2Proof/Config.lean ====
section
/-! DEFINITION. What an implementation fixes (the parameters of R14) and the free values: constants without a body,
so that nothing can be proved of them. -/

namespace Sys2Proof

/-- `DECODE_MODE` (R14, R96, R102). -/
inductive DecodeMode where
  | strict
  | lowField
  deriving DecidableEq, Repr

/-- `ODD_PC` (R14, R73, R203). -/
inductive OddPc where
  | fetch
  | fault
  deriving DecidableEq, Repr

/-- `VF_ORDER` (R14, R142). -/
inductive VfOrder where
  | flagLast
  | resultLast
  deriving DecidableEq, Repr

/-- `I_OVERFLOW` (R14, R186). -/
inductive IOverflow where
  | fault
  | wrap
  deriving DecidableEq, Repr

/-- `FONT_DIGIT_MASK` (R14, R187). -/
inductive FontDigitMask where
  | none
  | lowNibble
  deriving DecidableEq, Repr

/-- The configuration parameters R14 says the model takes as arguments. `exec` and `step` have no argument for
them, so `State.cfg` carries one value of this type and nothing changes it (log 1). -/
structure Params where
  decodeMode : DecodeMode
  oddPc : OddPc
  vfOrder : VfOrder
  iOverflow : IOverflow
  fontDigitMask : FontDigitMask
  /-- `FONT` (R57). -/
  font : Vector Byte 80
  deriving DecidableEq, Repr

/-- The random byte of the `k`-th draw (R55, R162): a free value (log 2). -/
opaque Config.randomByte (k : Nat) : Byte

/-- The byte that V[j] holds after the fatal fault numbered `k` (R201): a free value (log 4). -/
opaque Config.faultedReg (k j : Nat) : Byte

/-- The memory byte at address `a` after the fatal fault numbered `k` (R201): a free value (log 4). -/
opaque Config.faultedMem (k a : Nat) : Byte

/-- The word that element `j` holds after the fatal fault numbered `k` (R201): a free value (log 4). Elements 0 to
15 are the stack entries, 16 is I, 17 is pc, 18 is OPC. -/
opaque Config.faultedWord (k j : Nat) : Word

/-- SP after the fatal fault numbered `k` (R201): a free value in 0..16 (log 4). -/
opaque Config.faultedSp (k : Nat) : Fin 17

/-- The pixel at `col`, `row` after the fatal fault numbered `k` (R201): a free value (log 4). -/
opaque Config.faultedPixel (k col row : Nat) : Bool

end Sys2Proof
end

