-- ==== Sys2Proof/Syntax.lean ====
section
/-! DEFINITION. The instructions: one constructor per row of spec/opcode_table.json (R2, R105). The widths of the
operand fields of R94 are in the types, so no value of `Instr` has an operand out of range. -/

namespace Sys2Proof

/-- The 34 base instructions, in the order of R105. -/
inductive Instr where
  /-- `00E0` CLS (R120). -/
  | cls
  /-- `00EE` RET (R121). -/
  | ret
  /-- `1nnn` JP nnn (R122). -/
  | jp (nnn : Addr12)
  /-- `2nnn` CALL nnn (R123). -/
  | call (nnn : Addr12)
  /-- `3xnn` SE Vx, nn (R124). -/
  | seVxNn (x : Nibble) (nn : Byte)
  /-- `4xnn` SNE Vx, nn (R125). -/
  | sneVxNn (x : Nibble) (nn : Byte)
  /-- `5xy0` SE Vx, Vy (R126). -/
  | seVxVy (x y : Nibble)
  /-- `6xnn` LD Vx, nn (R140). -/
  | ldVxNn (x : Nibble) (nn : Byte)
  /-- `7xnn` ADD Vx, nn (R141). -/
  | addVxNn (x : Nibble) (nn : Byte)
  /-- `8xy0` LD Vx, Vy (R143). -/
  | ldVxVy (x y : Nibble)
  /-- `8xy1` OR Vx, Vy (R144). -/
  | orVxVy (x y : Nibble)
  /-- `8xy2` AND Vx, Vy (R145). -/
  | andVxVy (x y : Nibble)
  /-- `8xy3` XOR Vx, Vy (R146). -/
  | xorVxVy (x y : Nibble)
  /-- `8xy4` ADD Vx, Vy (R147). -/
  | addVxVy (x y : Nibble)
  /-- `8xy5` SUB Vx, Vy (R148). -/
  | subVxVy (x y : Nibble)
  /-- `8xy6` SHR Vx (R149): `y` is encoded and not read. -/
  | shrVx (x y : Nibble)
  /-- `8xy7` SUBN Vx, Vy (R150). -/
  | subnVxVy (x y : Nibble)
  /-- `8xyE` SHL Vx (R151): `y` is encoded and not read. -/
  | shlVx (x y : Nibble)
  /-- `9xy0` SNE Vx, Vy (R127). -/
  | sneVxVy (x y : Nibble)
  /-- `Annn` LD I, nnn (R160). -/
  | ldINnn (nnn : Addr12)
  /-- `Bnnn` JP V0, nnn (R161). -/
  | jpV0 (nnn : Addr12)
  /-- `Cxnn` RND Vx, nn (R162). -/
  | rndVxNn (x : Nibble) (nn : Byte)
  /-- `Dxyn` DRW Vx, Vy, n (R163). -/
  | drw (x y n : Nibble)
  /-- `Ex9E` SKP Vx (R180). -/
  | skp (x : Nibble)
  /-- `ExA1` SKNP Vx (R181). -/
  | sknp (x : Nibble)
  /-- `Fx07` LD Vx, DT (R182). -/
  | ldVxDt (x : Nibble)
  /-- `Fx0A` LD Vx, K (R183). -/
  | ldVxK (x : Nibble)
  /-- `Fx15` LD DT, Vx (R184). -/
  | ldDtVx (x : Nibble)
  /-- `Fx18` LD ST, Vx (R185). -/
  | ldStVx (x : Nibble)
  /-- `Fx1E` ADD I, Vx (R186). -/
  | addIVx (x : Nibble)
  /-- `Fx29` LD F, Vx (R187). -/
  | ldFVx (x : Nibble)
  /-- `Fx33` LD B, Vx (R188). -/
  | ldBVx (x : Nibble)
  /-- `Fx55` LD [I], Vx (R189). -/
  | ldMemVx (x : Nibble)
  /-- `Fx65` LD Vx, [I] (R190). -/
  | ldVxMem (x : Nibble)
  deriving DecidableEq, Repr

end Sys2Proof
end

