-- ==== Sys2Proof/WellFormed.lean ====
section
/-! DEFINITION. Well-formedness. Every `Instr` is well formed by its types: each operand has exactly the width R94
gives its field, so an out-of-range operand cannot be written. What is left to check is the opcode map of R105, kept
as rows of bits: a row's pattern lies inside its mask, and two rows never match one word (R96). -/

namespace Sys2Proof

/-- One row of spec/opcode_table.json: `strictMatch` and `strictMask` are its match and mask (R96, R105),
`lowMatch` and `lowMask` those it has under `DECODE_MODE = low_field` (R102). -/
structure OpcodeRow where
  strictMatch : Word
  strictMask : Word
  lowMatch : Word
  lowMask : Word
  deriving DecidableEq, Repr

/-- A row that R102 does not replace has the same pattern under both decode modes. -/
abbrev OpcodeRow.plain (pattern mask : Word) : OpcodeRow :=
  { strictMatch := pattern, strictMask := mask, lowMatch := pattern, lowMask := mask }

/-- A pattern sets no bit that its mask leaves to the operands. -/
def patternInMask (pattern mask : Word) : Bool := pattern &&& ~~~mask == 0

/-- No word matches both patterns: they differ in a bit that both masks fix. -/
def patternsDisjoint (p₁ m₁ p₂ m₂ : Word) : Bool := (p₁ ^^^ p₂) &&& m₁ &&& m₂ != 0

/-- Both patterns of the row lie inside their masks. -/
def OpcodeRow.wellFormed (r : OpcodeRow) : Bool :=
  patternInMask r.strictMatch r.strictMask && patternInMask r.lowMatch r.lowMask

/-- Under neither decode mode does a word match both rows. -/
def OpcodeRow.disjoint (r r' : OpcodeRow) : Bool :=
  patternsDisjoint r.strictMatch r.strictMask r'.strictMatch r'.strictMask &&
    patternsDisjoint r.lowMatch r.lowMask r'.lowMatch r'.lowMask

/-- Every row is well formed and every two rows are disjoint: "At most one row matches any word" (R96). -/
def opcodeMapWellFormed : List OpcodeRow → Bool
  | [] => true
  | r :: rest => r.wellFormed && rest.all (fun r' => r.disjoint r') && opcodeMapWellFormed rest

end Sys2Proof
end

