-- ==== Sys2Proof/Decode.lean ====
section
/-! DEFINITION. Decode and encode (R92 to R105). `decodeWord` answers `none` exactly where the spec says UNKNOWN
(R103), which is no fault: the cycle that meets it is in Machine/Cycle.lean. -/

namespace Sys2Proof

/-! ### The fields of an opcode (R93, R94) -/

/-- `op[15:12]`, the family nibble. -/
def fieldFamily (op : Word) : Nibble := op.extractLsb' 12 4

/-- `x = op[11:8]`. -/
def fieldX (op : Word) : Nibble := op.extractLsb' 8 4

/-- `y = op[7:4]`. -/
def fieldY (op : Word) : Nibble := op.extractLsb' 4 4

/-- `n = op[3:0]`. -/
def fieldN (op : Word) : Nibble := op.extractLsb' 0 4

/-- `nn = op[7:0]`. -/
def fieldNn (op : Word) : Byte := op.extractLsb' 0 8

/-- `nnn = op[11:0]`. -/
def fieldNnn (op : Word) : Addr12 := op.extractLsb' 0 12

/-! ### Byte order of an instruction (R71, R77) -/

/-- The opcode of two consecutive bytes, big-endian: the byte at the lower address is `op[15:8]` (R71). -/
def wordOfBytes (hi lo : Byte) : Word := hi ++ lo

/-- The byte at the instruction's own address, `op[15:8]`. -/
def highByte (op : Word) : Byte := op.extractLsb' 8 8

/-- The byte at the next address, `op[7:0]`. -/
def lowByte (op : Word) : Byte := op.extractLsb' 0 8

/-! ### Decode -/

/-- Family 0: the whole word under `strict` (R97), the low nibble alone under `low_field` (R102). -/
def decodeFamily0 (mode : DecodeMode) (op : Word) : Option Instr :=
  match mode with
  | .strict => if op = 0x00E0#16 then some .cls else if op = 0x00EE#16 then some .ret else none
  | .lowField =>
    match (fieldN op).toNat with
    | 0x0 => some .cls
    | 0xE => some .ret
    | _ => none

/-- Families 5 and 9: `n` must be 0 under `strict` (R101), any `n` will do under `low_field` (R102). -/
def decodePair (mode : DecodeMode) (op : Word) (i : Instr) : Option Instr :=
  match mode with
  | .strict => if fieldN op = 0#4 then some i else none
  | .lowField => some i

/-- Family 8, by `op[3:0]` (R98). -/
def decodeFamily8 (op : Word) : Option Instr :=
  match (fieldN op).toNat with
  | 0x0 => some (.ldVxVy (fieldX op) (fieldY op))
  | 0x1 => some (.orVxVy (fieldX op) (fieldY op))
  | 0x2 => some (.andVxVy (fieldX op) (fieldY op))
  | 0x3 => some (.xorVxVy (fieldX op) (fieldY op))
  | 0x4 => some (.addVxVy (fieldX op) (fieldY op))
  | 0x5 => some (.subVxVy (fieldX op) (fieldY op))
  | 0x6 => some (.shrVx (fieldX op) (fieldY op))
  | 0x7 => some (.subnVxVy (fieldX op) (fieldY op))
  | 0xE => some (.shlVx (fieldX op) (fieldY op))
  | _ => none

/-- Family E, by `op[7:0]` (R99). -/
def decodeFamilyE (op : Word) : Option Instr :=
  match (fieldNn op).toNat with
  | 0x9E => some (.skp (fieldX op))
  | 0xA1 => some (.sknp (fieldX op))
  | _ => none

/-- Family F, by `op[7:0]` (R100). -/
def decodeFamilyF (op : Word) : Option Instr :=
  match (fieldNn op).toNat with
  | 0x07 => some (.ldVxDt (fieldX op))
  | 0x0A => some (.ldVxK (fieldX op))
  | 0x15 => some (.ldDtVx (fieldX op))
  | 0x18 => some (.ldStVx (fieldX op))
  | 0x1E => some (.addIVx (fieldX op))
  | 0x29 => some (.ldFVx (fieldX op))
  | 0x33 => some (.ldBVx (fieldX op))
  | 0x55 => some (.ldMemVx (fieldX op))
  | 0x65 => some (.ldVxMem (fieldX op))
  | _ => none

/-- Decode of a 16-bit opcode under either `DECODE_MODE` (R96 to R103); `none` is UNKNOWN. -/
def decodeWord (mode : DecodeMode) (op : Word) : Option Instr :=
  match (fieldFamily op).toNat with
  | 0x0 => decodeFamily0 mode op
  | 0x1 => some (.jp (fieldNnn op))
  | 0x2 => some (.call (fieldNnn op))
  | 0x3 => some (.seVxNn (fieldX op) (fieldNn op))
  | 0x4 => some (.sneVxNn (fieldX op) (fieldNn op))
  | 0x5 => decodePair mode op (.seVxVy (fieldX op) (fieldY op))
  | 0x6 => some (.ldVxNn (fieldX op) (fieldNn op))
  | 0x7 => some (.addVxNn (fieldX op) (fieldNn op))
  | 0x8 => decodeFamily8 op
  | 0x9 => decodePair mode op (.sneVxVy (fieldX op) (fieldY op))
  | 0xA => some (.ldINnn (fieldNnn op))
  | 0xB => some (.jpV0 (fieldNnn op))
  | 0xC => some (.rndVxNn (fieldX op) (fieldNn op))
  | 0xD => some (.drw (fieldX op) (fieldY op) (fieldN op))
  | 0xE => decodeFamilyE op
  | 0xF => decodeFamilyF op
  | _ => none

/-- Why a byte string is not an instruction. -/
inductive DecodeReject where
  /-- Fewer than the two bytes every instruction has (R92). In the machine this is the fetch fault of R72, found
  before any decode (log 10). -/
  | truncated
  /-- The word decodes to UNKNOWN (R103). -/
  | unknown (op : Word)
  deriving DecidableEq, Repr

/-- Decode of a byte string: the instruction at its start and the bytes after it. It always consumes 2 bytes (R92). -/
def decode (mode : DecodeMode) : List Byte → Except DecodeReject (Instr × List Byte)
  | hi :: lo :: rest =>
    match decodeWord mode (wordOfBytes hi lo) with
    | some i => .ok (i, rest)
    | none => .error (.unknown (wordOfBytes hi lo))
  | _ => .error .truncated

/-! ### Encode (R105, R107) -/

/-- Format NNN (R95). -/
def encodeNnn (family : Nibble) (nnn : Addr12) : Word := family ++ nnn

/-- Format XNN (R95). -/
def encodeXnn (family x : Nibble) (nn : Byte) : Word := (family ++ x : Byte) ++ nn

/-- Formats XY and XYN (R95): four nibbles. -/
def encodeXyn (family x y n : Nibble) : Word := (family ++ x : Byte) ++ (y ++ n : Byte)

/-- The word of an instruction: its row of R105 with the fields filled in (R107). -/
def encode : Instr → Word
  | .cls => 0x00E0#16
  | .ret => 0x00EE#16
  | .jp nnn => encodeNnn 0x1#4 nnn
  | .call nnn => encodeNnn 0x2#4 nnn
  | .seVxNn x nn => encodeXnn 0x3#4 x nn
  | .sneVxNn x nn => encodeXnn 0x4#4 x nn
  | .seVxVy x y => encodeXyn 0x5#4 x y 0x0#4
  | .ldVxNn x nn => encodeXnn 0x6#4 x nn
  | .addVxNn x nn => encodeXnn 0x7#4 x nn
  | .ldVxVy x y => encodeXyn 0x8#4 x y 0x0#4
  | .orVxVy x y => encodeXyn 0x8#4 x y 0x1#4
  | .andVxVy x y => encodeXyn 0x8#4 x y 0x2#4
  | .xorVxVy x y => encodeXyn 0x8#4 x y 0x3#4
  | .addVxVy x y => encodeXyn 0x8#4 x y 0x4#4
  | .subVxVy x y => encodeXyn 0x8#4 x y 0x5#4
  | .shrVx x y => encodeXyn 0x8#4 x y 0x6#4
  | .subnVxVy x y => encodeXyn 0x8#4 x y 0x7#4
  | .shlVx x y => encodeXyn 0x8#4 x y 0xE#4
  | .sneVxVy x y => encodeXyn 0x9#4 x y 0x0#4
  | .ldINnn nnn => encodeNnn 0xA#4 nnn
  | .jpV0 nnn => encodeNnn 0xB#4 nnn
  | .rndVxNn x nn => encodeXnn 0xC#4 x nn
  | .drw x y n => encodeXyn 0xD#4 x y n
  | .skp x => encodeXnn 0xE#4 x 0x9E#8
  | .sknp x => encodeXnn 0xE#4 x 0xA1#8
  | .ldVxDt x => encodeXnn 0xF#4 x 0x07#8
  | .ldVxK x => encodeXnn 0xF#4 x 0x0A#8
  | .ldDtVx x => encodeXnn 0xF#4 x 0x15#8
  | .ldStVx x => encodeXnn 0xF#4 x 0x18#8
  | .addIVx x => encodeXnn 0xF#4 x 0x1E#8
  | .ldFVx x => encodeXnn 0xF#4 x 0x29#8
  | .ldBVx x => encodeXnn 0xF#4 x 0x33#8
  | .ldMemVx x => encodeXnn 0xF#4 x 0x55#8
  | .ldVxMem x => encodeXnn 0xF#4 x 0x65#8

/-- The two bytes of an instruction, in address order (R71, R92). -/
def encodeBytes (i : Instr) : List Byte := [highByte (encode i), lowByte (encode i)]

/-! ### The opcode map as bits (R102, R105) -/

/-- The row of R105 an instruction belongs to, with the replaced pattern of R102 where it has one. -/
def opcodeRow : Instr → OpcodeRow
  | .cls => { strictMatch := 0x00E0#16, strictMask := 0xFFFF#16, lowMatch := 0x0000#16, lowMask := 0xF00F#16 }
  | .ret => { strictMatch := 0x00EE#16, strictMask := 0xFFFF#16, lowMatch := 0x000E#16, lowMask := 0xF00F#16 }
  | .jp _ => .plain 0x1000#16 0xF000#16
  | .call _ => .plain 0x2000#16 0xF000#16
  | .seVxNn _ _ => .plain 0x3000#16 0xF000#16
  | .sneVxNn _ _ => .plain 0x4000#16 0xF000#16
  | .seVxVy _ _ =>
    { strictMatch := 0x5000#16, strictMask := 0xF00F#16, lowMatch := 0x5000#16, lowMask := 0xF000#16 }
  | .ldVxNn _ _ => .plain 0x6000#16 0xF000#16
  | .addVxNn _ _ => .plain 0x7000#16 0xF000#16
  | .ldVxVy _ _ => .plain 0x8000#16 0xF00F#16
  | .orVxVy _ _ => .plain 0x8001#16 0xF00F#16
  | .andVxVy _ _ => .plain 0x8002#16 0xF00F#16
  | .xorVxVy _ _ => .plain 0x8003#16 0xF00F#16
  | .addVxVy _ _ => .plain 0x8004#16 0xF00F#16
  | .subVxVy _ _ => .plain 0x8005#16 0xF00F#16
  | .shrVx _ _ => .plain 0x8006#16 0xF00F#16
  | .subnVxVy _ _ => .plain 0x8007#16 0xF00F#16
  | .shlVx _ _ => .plain 0x800E#16 0xF00F#16
  | .sneVxVy _ _ =>
    { strictMatch := 0x9000#16, strictMask := 0xF00F#16, lowMatch := 0x9000#16, lowMask := 0xF000#16 }
  | .ldINnn _ => .plain 0xA000#16 0xF000#16
  | .jpV0 _ => .plain 0xB000#16 0xF000#16
  | .rndVxNn _ _ => .plain 0xC000#16 0xF000#16
  | .drw _ _ _ => .plain 0xD000#16 0xF000#16
  | .skp _ => .plain 0xE09E#16 0xF0FF#16
  | .sknp _ => .plain 0xE0A1#16 0xF0FF#16
  | .ldVxDt _ => .plain 0xF007#16 0xF0FF#16
  | .ldVxK _ => .plain 0xF00A#16 0xF0FF#16
  | .ldDtVx _ => .plain 0xF015#16 0xF0FF#16
  | .ldStVx _ => .plain 0xF018#16 0xF0FF#16
  | .addIVx _ => .plain 0xF01E#16 0xF0FF#16
  | .ldFVx _ => .plain 0xF029#16 0xF0FF#16
  | .ldBVx _ => .plain 0xF033#16 0xF0FF#16
  | .ldMemVx _ => .plain 0xF055#16 0xF0FF#16
  | .ldVxMem _ => .plain 0xF065#16 0xF0FF#16

/-- One instruction of each row, families 0 to 7, in the order of R105. -/
def oneOfEachFlow : List Instr :=
  [.cls, .ret, .jp 0#12, .call 0#12, .seVxNn 0#4 0#8, .sneVxNn 0#4 0#8, .seVxVy 0#4 0#4, .ldVxNn 0#4 0#8,
    .addVxNn 0#4 0#8]

/-- One instruction of each row, families 8 to D, in the order of R105. -/
def oneOfEachAlu : List Instr :=
  [.ldVxVy 0#4 0#4, .orVxVy 0#4 0#4, .andVxVy 0#4 0#4, .xorVxVy 0#4 0#4, .addVxVy 0#4 0#4, .subVxVy 0#4 0#4,
    .shrVx 0#4 0#4, .subnVxVy 0#4 0#4, .shlVx 0#4 0#4, .sneVxVy 0#4 0#4, .ldINnn 0#12, .jpV0 0#12,
    .rndVxNn 0#4 0#8, .drw 0#4 0#4 0#4]

/-- One instruction of each row, families E and F, in the order of R105. -/
def oneOfEachMisc : List Instr :=
  [.skp 0#4, .sknp 0#4, .ldVxDt 0#4, .ldVxK 0#4, .ldDtVx 0#4, .ldStVx 0#4, .addIVx 0#4, .ldFVx 0#4, .ldBVx 0#4,
    .ldMemVx 0#4, .ldVxMem 0#4]

/-- One instruction of each row, in the order of R105. -/
def oneOfEach : List Instr := oneOfEachFlow ++ (oneOfEachAlu ++ oneOfEachMisc)

/-- The 34 rows of R105. -/
def opcodeMap : List OpcodeRow := oneOfEach.map opcodeRow

/-- The bits a row fixes under a decode mode (R96, R102). -/
def OpcodeRow.maskOf (mode : DecodeMode) (r : OpcodeRow) : Word :=
  match mode with
  | .strict => r.strictMask
  | .lowField => r.lowMask

/-- The values of the bits a row fixes under a decode mode (R96, R102). -/
def OpcodeRow.matchOf (mode : DecodeMode) (r : OpcodeRow) : Word :=
  match mode with
  | .strict => r.strictMatch
  | .lowField => r.lowMatch

/-- `(op & mask) = match` (R96). -/
def OpcodeRow.accepts (mode : DecodeMode) (r : OpcodeRow) (op : Word) : Bool :=
  op &&& r.maskOf mode == r.matchOf mode

/-! ### Assembler syntax (R106) -/

/-- One hexadecimal digit. -/
def hexDigit (k : Nat) : String := (["0", "1", "2", "3", "4", "5", "6", "7"] ++
  ["8", "9", "A", "B", "C", "D", "E", "F"]).getD k "?"

/-- `V0` to `VF`. -/
def regName (x : Nibble) : String := "V" ++ hexDigit x.toNat

/-- A byte, written `0x..`. -/
def byteText (b : Byte) : String := "0x" ++ hexDigit (b.toNat / 16) ++ hexDigit (b.toNat % 16)

/-- A 12-bit address, written `0x...`. -/
def addrText (a : Addr12) : String :=
  "0x" ++ hexDigit (a.toNat / 256) ++ hexDigit (a.toNat / 16 % 16) ++ hexDigit (a.toNat % 16)

/-- The instruction in the assembler syntax of R106: the mnemonic column of R105 with the operands filled in. R106 gives
no form for the operand `n` of DRW: one hexadecimal digit without `0x` is the model's choice (log 17). -/
def asmText : Instr → String
  | .cls => "CLS"
  | .ret => "RET"
  | .jp nnn => "JP " ++ addrText nnn
  | .call nnn => "CALL " ++ addrText nnn
  | .seVxNn x nn => "SE " ++ regName x ++ ", " ++ byteText nn
  | .sneVxNn x nn => "SNE " ++ regName x ++ ", " ++ byteText nn
  | .seVxVy x y => "SE " ++ regName x ++ ", " ++ regName y
  | .ldVxNn x nn => "LD " ++ regName x ++ ", " ++ byteText nn
  | .addVxNn x nn => "ADD " ++ regName x ++ ", " ++ byteText nn
  | .ldVxVy x y => "LD " ++ regName x ++ ", " ++ regName y
  | .orVxVy x y => "OR " ++ regName x ++ ", " ++ regName y
  | .andVxVy x y => "AND " ++ regName x ++ ", " ++ regName y
  | .xorVxVy x y => "XOR " ++ regName x ++ ", " ++ regName y
  | .addVxVy x y => "ADD " ++ regName x ++ ", " ++ regName y
  | .subVxVy x y => "SUB " ++ regName x ++ ", " ++ regName y
  | .shrVx x _ => "SHR " ++ regName x
  | .subnVxVy x y => "SUBN " ++ regName x ++ ", " ++ regName y
  | .shlVx x _ => "SHL " ++ regName x
  | .sneVxVy x y => "SNE " ++ regName x ++ ", " ++ regName y
  | .ldINnn nnn => "LD I, " ++ addrText nnn
  | .jpV0 nnn => "JP V0, " ++ addrText nnn
  | .rndVxNn x nn => "RND " ++ regName x ++ ", " ++ byteText nn
  | .drw x y n => "DRW " ++ regName x ++ ", " ++ regName y ++ ", " ++ hexDigit n.toNat
  | .skp x => "SKP " ++ regName x
  | .sknp x => "SKNP " ++ regName x
  | .ldVxDt x => "LD " ++ regName x ++ ", DT"
  | .ldVxK x => "LD " ++ regName x ++ ", K"
  | .ldDtVx x => "LD DT, " ++ regName x
  | .ldStVx x => "LD ST, " ++ regName x
  | .addIVx x => "ADD I, " ++ regName x
  | .ldFVx x => "LD F, " ++ regName x
  | .ldBVx x => "LD B, " ++ regName x
  | .ldMemVx x => "LD [I], " ++ regName x
  | .ldVxMem x => "LD " ++ regName x ++ ", [I]"

/-! ### The host's view of the decoder -/

/-- The instruction's bytes as the hardware stores them, from the table's numbering: the table's one 16-bit word, bits
at and above `nbits` zero, high byte first (R71). -/
def tableBytes (nbits w : Nat) : List Byte :=
  [highByte (BitVec.ofNat 16 (w % 2 ^ nbits)), lowByte (BitVec.ofNat 16 (w % 2 ^ nbits))]

/-- What the decoder reads from a table word, under the default `DECODE_MODE = strict` of R14. -/
def decodeTableWord (nbits w : Nat) : Option Instr :=
  match decode .strict (tableBytes nbits w) with
  | .ok (i, _) => some i
  | .error _ => none

end Sys2Proof
end

