-- ==== Sys2Proof/Machine/Flags.lean ====
section
/-! DEFINITION. The result and the flag of each flag-writing ALU operation, computed on the exact integers and reduced
modulo 256 (R139, R142). -/

namespace Sys2Proof.Machine

/-- The 8-bit result `r` and the 1-bit flag `f` of R142. -/
structure AluResult where
  r : Byte
  f : Bool
  deriving DecidableEq, Repr

/-- `trunc_8` of a natural number (R16). -/
def trunc8 (n : Nat) : Byte := BitVec.ofNat 8 n

/-- The byte VF takes for a flag (R38). -/
def flagByte (f : Bool) : Byte := if f then 1#8 else 0#8

/-- `a + b` and its carry out of bit 7 (R147). -/
def aluAdd (a b : Byte) : AluResult := { r := trunc8 (a.toNat + b.toNat), f := decide (a.toNat + b.toNat > 255) }

/-- `a - b` modulo 256 and NOT borrow, for `8xy5` and, with the operands exchanged, `8xy7` (R148, R150). -/
def aluSub (a b : Byte) : AluResult :=
  { r := trunc8 (256 + a.toNat - b.toNat), f := decide (b.toNat ≤ a.toNat) }

/-- `a >> 1` and the bit shifted out, `a[0]` (R149). -/
def aluShr (a : Byte) : AluResult := { r := trunc8 (a.toNat / 2), f := a.getLsbD 0 }

/-- `trunc_8(a << 1)` and the bit shifted out, `a[7]` (R151). -/
def aluShl (a : Byte) : AluResult := { r := trunc8 (2 * a.toNat), f := a.getLsbD 7 }

end Sys2Proof.Machine
end

