-- ==== Sys2Proof/Machine/Defaults.lean ====
section
/-! DEFINITION. The default values of the configuration parameters (R14, R57) and the contents of memory right after
reset (R60, R79). -/

namespace Sys2Proof.Machine

/-- Glyphs 0 to 3 of the default `FONT` (R57; the bytes are the spec's general knowledge, log 7). -/
def fontGlyphs0to3 : List Byte :=
  [0xF0#8, 0x90#8, 0x90#8, 0x90#8, 0xF0#8, 0x20#8, 0x60#8, 0x20#8, 0x20#8, 0x70#8,
   0xF0#8, 0x10#8, 0xF0#8, 0x80#8, 0xF0#8, 0xF0#8, 0x10#8, 0xF0#8, 0x10#8, 0xF0#8]

/-- Glyphs 4 to 7 of the default `FONT` (R57, log 7). -/
def fontGlyphs4to7 : List Byte :=
  [0x90#8, 0x90#8, 0xF0#8, 0x10#8, 0x10#8, 0xF0#8, 0x80#8, 0xF0#8, 0x10#8, 0xF0#8,
   0xF0#8, 0x80#8, 0xF0#8, 0x90#8, 0xF0#8, 0xF0#8, 0x10#8, 0x20#8, 0x40#8, 0x40#8]

/-- Glyphs 8 to B of the default `FONT` (R57, log 7). -/
def fontGlyphs8toB : List Byte :=
  [0xF0#8, 0x90#8, 0xF0#8, 0x90#8, 0xF0#8, 0xF0#8, 0x90#8, 0xF0#8, 0x10#8, 0xF0#8,
   0xF0#8, 0x90#8, 0xF0#8, 0x90#8, 0x90#8, 0xE0#8, 0x90#8, 0xE0#8, 0x90#8, 0xE0#8]

/-- Glyphs C to F of the default `FONT` (R57, log 7). -/
def fontGlyphsCtoF : List Byte :=
  [0xF0#8, 0x80#8, 0x80#8, 0x80#8, 0xF0#8, 0xE0#8, 0x90#8, 0x90#8, 0x90#8, 0xE0#8,
   0xF0#8, 0x80#8, 0xF0#8, 0x80#8, 0xF0#8, 0xF0#8, 0x80#8, 0xF0#8, 0x80#8, 0x80#8]

/-- The default `FONT`, 5 bytes per hexadecimal digit (R57). -/
def defaultFontBytes : List Byte := fontGlyphs0to3 ++ (fontGlyphs4to7 ++ (fontGlyphs8toB ++ fontGlyphsCtoF))

/-- The default value of the parameter `FONT` (R14, R57). -/
def defaultFont : Vector Byte 80 := ⟨defaultFontBytes.toArray, rfl⟩

/-- The defaults of R14. -/
def defaultParams : Params :=
  { decodeMode := .strict, oddPc := .fetch, vfOrder := .flagLast, iOverflow := .fault, fontDigitMask := .none,
    font := defaultFont }

/-- What a memory address reads as when State lists nothing for it: its contents after reset with the default `FONT`,
the glyphs at 0x000-0x04F and 0 above (R60, R79; log 7). -/
def resetByte (a : Nat) : Byte := defaultFontBytes.getD a 0#8

end Sys2Proof.Machine
end

