-- ==== Sys2Proof/Machine/State.lean ====
section
/-! DEFINITION. The state of the machine, all of it (R30), its faults and refusals, and the state after reset (R60). -/

namespace Sys2Proof.Machine

/-- `MEM` (R45) as the list of the bytes that differ from `resetByte`, in rising address order (Machine/Ops.lean
states that form as `Memory.wf`). -/
abbrev Memory := List Host.Cell

/-- `FB[col][row]`, one bit per pixel, true meaning on (R52). -/
abbrev Framebuffer := Vector (Vector Bool 32) 64

/-- The fatal fault codes of R202. -/
inductive FaultCode where
  | fetchOob
  | stackOverflow
  | stackUnderflow
  | memOob
  | keyIndex
  | indexOverflow
  | loadOverflow
  | oddPc
  deriving DecidableEq, Repr

/-- The record `FAULT` (R47, R201). `addr` is a plain number: R202 records unbounded sums there. -/
structure FaultRecord where
  code : FaultCode
  pc : Word
  opcode : Option Word
  addr : Nat
  deriving DecidableEq, Repr

/-- An unknown-opcode event (R48, R210). -/
structure Event where
  pc : Word
  opcode : Word
  deriving DecidableEq, Repr

/-- The state: the elements of R30, the cycle's random input (R55), the parameters (R14) and the model's counter. -/
structure State where
  /-- V0 to VF (R31, R32). -/
  v : Vector Byte 16
  /-- The index register (R39). -/
  i : Word
  /-- The program counter (R35). -/
  pc : Word
  /-- The stack pointer, the number of occupied entries (R40). -/
  sp : Fin 17
  /-- The call stack (R40). -/
  stack : Vector Word 16
  /-- The delay timer (R42). -/
  dt : Byte
  /-- The sound timer (R43). -/
  st : Byte
  /-- `OPC`, the current opcode (R46). -/
  opc : Word
  /-- `MEM` (R45). -/
  mem : Memory
  /-- `HALTED` (R47). -/
  halted : Bool
  /-- `FAULT` (R47). -/
  fault : Option FaultRecord
  /-- `EVENTS`, oldest first (R48). -/
  events : List Event
  /-- `AWAIT` (R58). -/
  awaitKey : Bool
  /-- `KEY`, true meaning pressed (R51). -/
  key : Vector Bool 16
  /-- `FB` (R52). -/
  fb : Framebuffer
  /-- The random-byte input of the cycle (R55; log 2, log 3). -/
  rnd : Byte
  /-- The configuration parameters (R14; log 1). -/
  cfg : Params
  /-- THE MODEL'S OWN: how many free values have been drawn (log 3). -/
  free : Nat
  deriving DecidableEq, Repr

/-- Why a step stops the machine. -/
inductive Fault where
  /-- Raised by `step` alone, in a state with `HALTED = 1`: "the core has no step" (R90 step 1, R201). The stuck state
  after a fatal fault. Safe: the spec gives such a call no effect (log 6). -/
  | halted
  deriving DecidableEq, Repr

/-- What the model refuses. -/
inductive Refusal where
  /-- An instruction without a meaning yet, raised by `exec`'s arms alone; none is left. Safe. -/
  | notModelled (mnemonic : String)
  /-- Raised by the host operation `load_program` while `HALTED = 1`: "the call is refused" (R233). Safe. -/
  | loadWhileHalted
  /-- Raised by the host operation `set_key_state` for a key above 15: "such a host move does not exist" (R217).
  Safe for a host that keeps the contract (D25). -/
  | keyOutOfRange
  deriving DecidableEq, Repr

/-- The machine right after reset at system start (R60, R230, R231), with the default parameters (R14). `rnd` and
`free` are no elements of R30; their values are the model's (log 3). -/
def State.reset : State where
  v := Vector.replicate 16 0#8
  i := 0x200#16
  pc := 0x200#16
  sp := 0
  stack := Vector.replicate 16 0#16
  dt := 0#8
  st := 0#8
  opc := 0#16
  mem := []
  halted := false
  fault := none
  events := []
  awaitKey := false
  key := Vector.replicate 16 false
  fb := Vector.replicate 64 (Vector.replicate 32 false)
  rnd := 0#8
  cfg := defaultParams
  free := 0

end Sys2Proof.Machine
end

