-- ==== Sys2Proof/Machine/Ops.lean ====
section
/-! DEFINITION. The named operations over memory, registers, stack, display and faults. -/

namespace Sys2Proof.Machine

/-! ### Memory (R45, R70, R75) -/

/-- The byte at address `a`. -/
def Memory.read : Memory → Nat → Byte
  | [], a => resetByte a
  | (k, b) :: rest, a => if k = a then b else Memory.read rest a

/-- Puts `b` at address `a` into a sorted list, leaving no entry where `b` is the reset contents. -/
def Memory.insert : Memory → Nat → Byte → Memory
  | [], a, b => if b = resetByte a then [] else [(a, b)]
  | (k, c) :: rest, a, b =>
    if a < k then (if b = resetByte a then (k, c) :: rest else (a, b) :: (k, c) :: rest)
    else if a = k then (if b = resetByte a then rest else (a, b) :: rest)
    else (k, c) :: Memory.insert rest a b

/-- Writes byte `b` at address `a`. Every access is checked before it is made (R75, R76), so `a` is below 0x1000;
outside the space there is nothing to write. -/
def Memory.write (m : Memory) (a : Nat) (b : Byte) : Memory := if a < 0x1000 then Memory.insert m a b else m

/-- Writes bytes at `a`, `a + 1`, ... in ascending order (R83, R233). -/
def Memory.writeBlock : Memory → Nat → List Byte → Memory
  | m, _, [] => m
  | m, a, b :: rest => Memory.writeBlock (Memory.write m a b) (a + 1) rest

/-- The `n` bytes at `a`, `a + 1`, ... (R164). -/
def Memory.readBlock (m : Memory) (a n : Nat) : List Byte := (List.range n).map (fun k => Memory.read m (a + k))

/-- The memory whose byte at each address is the given one. -/
def Memory.ofBytes (f : Nat → Byte) : Memory :=
  (List.range 0x1000).filterMap (fun a => if f a = resetByte a then none else some (a, f a))

/-- Addresses rise strictly from `lo`, lie in the address space, and no entry repeats the reset contents. -/
def Memory.wfFrom : Nat → Memory → Bool
  | _, [] => true
  | lo, (k, b) :: rest => decide (lo ≤ k) && decide (k < 0x1000) && decide (b ≠ resetByte k) && Memory.wfFrom (k + 1) rest

/-- The canonical form of memory. -/
def Memory.wf (m : Memory) : Bool := Memory.wfFrom 0 m

/-! ### General registers (R31) -/

/-- Reads V[x]. -/
def State.getV (s : State) (x : Nibble) : Byte := s.v[x.toNat]'(x.isLt)

/-- Writes V[x]. -/
def State.setV (s : State) (x : Nibble) (b : Byte) : State := { s with v := s.v.set x.toNat b x.isLt }

/-- VF, the flag register (R32). -/
abbrev flagReg : Nibble := 0xF#4

/-- `WriteRF(r, f)` (R142): result and flag in the order `VF_ORDER` gives. -/
def State.writeRF (s : State) (x : Nibble) (r f : Byte) : State :=
  match s.cfg.vfOrder with
  | .flagLast => (s.setV x r).setV flagReg f
  | .resultLast => (s.setV flagReg f).setV x r

/-- V[0..x], lowest register first (R189). -/
def State.regBytes (s : State) (x : Nibble) : List Byte := s.v.toList.take (x.toNat + 1)

/-- Loads V[0..x] from memory at address `a`, other registers unchanged (R190). -/
def State.loadRegs (s : State) (x : Nibble) (a : Nat) : State :=
  { s with v := Vector.ofFn (fun k : Fin 16 => if k.val ≤ x.toNat then Memory.read s.mem (a + k.val) else s.v[k]) }

/-! ### Program counter (R35) -/

/-- `pc <- P + k`. In a cycle P is at most 0xFFE, so the 16-bit sum never wraps (R37). -/
def State.advance (s : State) (k : Word) : State := { s with pc := s.pc + k }

/-- `pc <- target`. -/
def State.jumpTo (s : State) (target : Word) : State := { s with pc := target }

/-- Advance 4 where the condition holds, else 2 (R20, R128). -/
def State.skipIf (s : State) (c : Bool) : State := if c then s.advance 4#16 else s.advance 2#16

/-! ### Index register and timers (R39, R42, R43) -/

/-- `I <- v`. -/
def State.setI (s : State) (w : Word) : State := { s with i := w }

/-- `DT <- v`. -/
def State.setDt (s : State) (b : Byte) : State := { s with dt := b }

/-- `ST <- v`. -/
def State.setSt (s : State) (b : Byte) : State := { s with st := b }

/-- `MEM <- m`. -/
def State.setMem (s : State) (m : Memory) : State := { s with mem := m }

/-! ### Call stack (R40) -/

/-- STACK[k]. -/
def State.stackAt (s : State) (k : Nat) : Word := s.stack[k]?.getD 0#16

/-- Stores `w` at STACK[SP], then increments SP; legal only when SP < 16, which the caller checks. -/
def State.push (s : State) (w : Word) : State :=
  { s with stack := s.stack.setIfInBounds s.sp.val w, sp := Fin.ofNat 17 (s.sp.val + 1) }

/-- Decrements SP, the popped entry left in place; legal only when SP > 0, which the caller checks. -/
def State.pop (s : State) : State := { s with sp := Fin.ofNat 17 (s.sp.val - 1) }

/-! ### Keypad (R217) -/

/-- `Keypad.is_pressed(k)`. -/
def State.isPressed (s : State) (k : Nat) : Bool := s.key[k]?.getD false

/-- The lowest-numbered pressed key (R183). -/
def State.pressedKey (s : State) : Option Nat := (List.range 16).find? (fun k => s.isPressed k)

/-! ### Display (R166, R167, R215, R216) -/

/-- FB[col][row]. -/
def Framebuffer.get (fb : Framebuffer) (col : Fin 64) (row : Fin 32) : Bool := (fb[col])[row]

/-- FB[col][row] <- FB[col][row] ^ 1. -/
def Framebuffer.toggle (fb : Framebuffer) (col : Fin 64) (row : Fin 32) : Framebuffer :=
  fb.set col.val ((fb[col]).set row.val (!Framebuffer.get fb col row))

/-- `Display.clear()` (R215). -/
def Framebuffer.clear : Framebuffer := Vector.replicate 64 (Vector.replicate 32 false)

/-- The pixels of one sprite row, leftmost first: bit `b` is at column `cx + (7 - b)`, bit 7 the leftmost (R166,
log 11). -/
def rowPixels (cx row : Nat) (bits : Byte) : List (Fin 64 × Fin 32) :=
  ([7, 6, 5, 4, 3, 2, 1, 0].filter (fun b => bits.getLsbD b)).map
    (fun b => (Fin.ofNat 64 (cx + (7 - b)), Fin.ofNat 32 row))

/-- The pixels of a sprite whose top left corner is at `cx`, `cy`, each coordinate wrapped (R166). -/
def spritePixels (cx : Nat) : Nat → List Byte → List (Fin 64 × Fin 32)
  | _, [] => []
  | cy, bits :: rest => rowPixels cx cy bits ++ spritePixels cx (cy + 1) rest

/-- One turn of R167's loop: the collision is noted, then the pixel is toggled. -/
def xorPixel (acc : Framebuffer × Bool) (p : Fin 64 × Fin 32) : Framebuffer × Bool :=
  (Framebuffer.toggle acc.1 p.1 p.2, acc.2 || Framebuffer.get acc.1 p.1 p.2)

/-- `Display.draw(cx, cy, sprite)`: the framebuffer after the XOR, and the collision (R167). -/
def Framebuffer.draw (fb : Framebuffer) (cx cy : Nat) (sprite : List Byte) : Framebuffer × Bool :=
  (spritePixels cx cy sprite).foldl xorPixel (fb, false)

/-- `FB <- fb`. -/
def State.setFb (s : State) (fb : Framebuffer) : State := { s with fb := fb }

/-! ### Fatal faults (R201, R202) -/

/-- The number R202 gives a fault code. -/
def FaultCode.number : FaultCode → Nat
  | .fetchOob => 1
  | .stackOverflow => 2
  | .stackUnderflow => 3
  | .memOob => 4
  | .keyIndex => 5
  | .indexOverflow => 6
  | .loadOverflow => 7
  | .oddPc => 8

/-- Entry to a fatal fault (R201): `HALTED` and `FAULT` are set; the timers do not count down, `AWAIT` is unchanged,
`EVENTS` keeps its events, and the keys stay (R51; log 5); every other element of R30 is unspecified and takes a free
value (log 4). -/
def State.takeFault (s : State) (code : FaultCode) (opcode : Option Word) (addr : Nat) : State :=
  { s with
    v := Vector.ofFn (fun k : Fin 16 => Config.faultedReg s.free k.val)
    i := Config.faultedWord s.free 16
    pc := Config.faultedWord s.free 17
    sp := Config.faultedSp s.free
    stack := Vector.ofFn (fun k : Fin 16 => Config.faultedWord s.free k.val)
    opc := Config.faultedWord s.free 18
    mem := Memory.ofBytes (Config.faultedMem s.free)
    fb := Vector.ofFn (fun c : Fin 64 => Vector.ofFn (fun r : Fin 32 => Config.faultedPixel s.free c.val r.val))
    halted := true
    fault := some { code := code, pc := s.pc, opcode := opcode, addr := addr }
    free := s.free + 1 }

/-- `raise Fatal(code, addr)` by the executing instruction: `FAULT.opcode` is `OPC`. -/
def raiseFatal (code : FaultCode) (addr : Nat) (s : State) : Host.Outcome State Fault Refusal :=
  .next (s.takeFault code (some s.opc) addr)

end Sys2Proof.Machine
end

