-- ==== Sys2Proof/Machine/Operands.lean ====
section
/-! DEFINITION. The operand forms: how a field of the opcode, a register or I becomes the value an instruction works
on. Every operand is read before anything is written (R17). -/

namespace Sys2Proof.Machine

/-- `zext_16(nnn)` (R94). -/
def addrOperand (nnn : Addr12) : Word := nnn.setWidth 16

/-- `zext_16(V[x])` (R161, R186). -/
def State.wideV (s : State) (x : Nibble) : Word := (s.getV x).setWidth 16

/-- The column `cx = V[x] mod 64` (R165). -/
def State.spriteCol (s : State) (x : Nibble) : Nat := (s.getV x).toNat % 64

/-- The row `cy = V[y] mod 32` (R165). -/
def State.spriteRow (s : State) (y : Nibble) : Nat := (s.getV y).toNat % 32

/-- The key number in V[x] (R180, R181). -/
def State.keyNumber (s : State) (x : Nibble) : Nat := (s.getV x).toNat

/-- The digit whose glyph `Fx29` points at (R187). -/
def State.fontDigit (s : State) (x : Nibble) : Nat :=
  match s.cfg.fontDigitMask with
  | .none => (s.getV x).toNat
  | .lowNibble => (s.getV x).toNat % 16

/-- The address of the glyph of digit `d`: `FONT_BASE + 5 * d`, `FONT_BASE` being 0x000 (R11, R187). -/
def glyphAddr (d : Nat) : Word := BitVec.ofNat 16 (0x000 + 5 * d)

/-- The access of `len` bytes at `I` stays inside memory: `I + len - 1 <= 0xFFF` (R76). -/
def State.blockFits (s : State) (len : Nat) : Bool := decide (s.i.toNat + len ≤ 0x1000)

/-- The first address above 0xFFF of an access at `I` that does not fit (R76). -/
def State.firstOob (s : State) : Nat := max s.i.toNat 0x1000

/-- `I + V[x]`, unbounded (R186). -/
def State.indexSum (s : State) (x : Nibble) : Nat := s.i.toNat + (s.getV x).toNat

/-- `I` after a block move of `x + 1` bytes (R189, R190). -/
def State.indexAfterBlock (s : State) (x : Nibble) : Word := BitVec.ofNat 16 (s.i.toNat + x.toNat + 1)

/-- The hundreds, tens and ones digits of a byte (R188). -/
def bcdDigits (b : Byte) : List Byte :=
  [BitVec.ofNat 8 (b.toNat / 100), BitVec.ofNat 8 (b.toNat / 10 % 10), BitVec.ofNat 8 (b.toNat % 10)]

end Sys2Proof.Machine
end

