-- ==== Sys2Proof/Machine/Alu.lean ====
section
/-! DEFINITION. Meanings: immediate loads and the register ALU (41_load_and_alu.md), and the masked random byte
(R162). -/

namespace Sys2Proof.Machine

/-- `V[x] <- b; pc <- P + 2`: the shape of every load and logic operation. -/
def State.finishReg (s : State) (x : Nibble) (b : Byte) : State := (s.setV x b).advance 2#16

/-- `WriteRF(r, f); pc <- P + 2`: the shape of every flag-writing operation (R142). -/
def State.finishAlu (s : State) (x : Nibble) (res : AluResult) : State :=
  (s.writeRF x res.r (flagByte res.f)).advance 2#16

/-- `6xnn` LD Vx, nn (R140). -/
def execLdVxNn (x : Nibble) (nn : Byte) (s : State) : Host.Outcome State Fault Refusal :=
  .next (s.finishReg x nn)

/-- `7xnn` ADD Vx, nn (R141): no flag. -/
def execAddVxNn (x : Nibble) (nn : Byte) (s : State) : Host.Outcome State Fault Refusal :=
  .next (s.finishReg x (trunc8 ((s.getV x).toNat + nn.toNat)))

/-- `8xy0` LD Vx, Vy (R143). -/
def execLdVxVy (x y : Nibble) (s : State) : Host.Outcome State Fault Refusal :=
  .next (s.finishReg x (s.getV y))

/-- `8xy1` OR Vx, Vy (R144): no flag. -/
def execOrVxVy (x y : Nibble) (s : State) : Host.Outcome State Fault Refusal :=
  .next (s.finishReg x (s.getV x ||| s.getV y))

/-- `8xy2` AND Vx, Vy (R145): no flag. -/
def execAndVxVy (x y : Nibble) (s : State) : Host.Outcome State Fault Refusal :=
  .next (s.finishReg x (s.getV x &&& s.getV y))

/-- `8xy3` XOR Vx, Vy (R146): no flag. -/
def execXorVxVy (x y : Nibble) (s : State) : Host.Outcome State Fault Refusal :=
  .next (s.finishReg x (s.getV x ^^^ s.getV y))

/-- `8xy4` ADD Vx, Vy (R147). -/
def execAddVxVy (x y : Nibble) (s : State) : Host.Outcome State Fault Refusal :=
  .next (s.finishAlu x (aluAdd (s.getV x) (s.getV y)))

/-- `8xy5` SUB Vx, Vy (R148). -/
def execSubVxVy (x y : Nibble) (s : State) : Host.Outcome State Fault Refusal :=
  .next (s.finishAlu x (aluSub (s.getV x) (s.getV y)))

/-- `8xy6` SHR Vx (R149): the field `y` is encoded and V[y] is not read. -/
def execShrVx (x _y : Nibble) (s : State) : Host.Outcome State Fault Refusal :=
  .next (s.finishAlu x (aluShr (s.getV x)))

/-- `8xy7` SUBN Vx, Vy (R150). -/
def execSubnVxVy (x y : Nibble) (s : State) : Host.Outcome State Fault Refusal :=
  .next (s.finishAlu x (aluSub (s.getV y) (s.getV x)))

/-- `8xyE` SHL Vx (R151): the field `y` is encoded and V[y] is not read. -/
def execShlVx (x _y : Nibble) (s : State) : Host.Outcome State Fault Refusal :=
  .next (s.finishAlu x (aluShl (s.getV x)))

/-- `Cxnn` RND Vx, nn (R162): the cycle's random byte (R55), masked. -/
def execRndVxNn (x : Nibble) (nn : Byte) (s : State) : Host.Outcome State Fault Refusal :=
  .next (s.finishReg x (nn &&& s.rnd))

end Sys2Proof.Machine
end

