-- ==== Sys2Proof/Machine/Draw.lean ====
section
/-! DEFINITION. Meaning: the sprite draw with its collision detection (R163 to R168). -/

namespace Sys2Proof.Machine

/-- `SpriteFetch(I, n)` (R164). -/
def State.spriteFetch (s : State) (n : Nibble) : List Byte := Memory.readBlock s.mem s.i.toNat n.toNat

/-- What `Display.draw` answers to `Dxyn` (R163). -/
def State.drawSprite (s : State) (x y n : Nibble) : Framebuffer × Bool :=
  Framebuffer.draw s.fb (s.spriteCol x) (s.spriteRow y) (s.spriteFetch n)

/-- `Dxyn` DRW Vx, Vy, n (R163). With `n = 0` nothing is read or checked (R168). -/
def execDrw (x y n : Nibble) (s : State) : Host.Outcome State Fault Refusal :=
  if n.toNat ≠ 0 ∧ s.blockFits n.toNat = false then raiseFatal .memOob s.firstOob s
  else .next (((s.setFb (s.drawSprite x y n).1).setV flagReg (flagByte (s.drawSprite x y n).2)).advance 2#16)

end Sys2Proof.Machine
end

