-- ==== Sys2Proof/Machine/Flow.lean ====
section
/-! DEFINITION. Meanings: display clear, return, jumps, calls and the register skips (40_system_and_flow.md, R161). -/

namespace Sys2Proof.Machine

/-- `00E0` CLS (R120). -/
def execCls (s : State) : Host.Outcome State Fault Refusal :=
  .next ((s.setFb Framebuffer.clear).advance 2#16)

/-- `00EE` RET (R121): the popped entry is the address of the call, so control resumes 2 above it. -/
def execRet (s : State) : Host.Outcome State Fault Refusal :=
  if s.sp.val = 0 then raiseFatal .stackUnderflow s.pc.toNat s
  else .next (s.pop.jumpTo (s.pop.stackAt s.pop.sp.val + 2#16))

/-- `1nnn` JP nnn (R122). -/
def execJp (nnn : Addr12) (s : State) : Host.Outcome State Fault Refusal :=
  .next (s.jumpTo (addrOperand nnn))

/-- `2nnn` CALL nnn (R123): the value pushed is the address of the call itself. -/
def execCall (nnn : Addr12) (s : State) : Host.Outcome State Fault Refusal :=
  if s.sp.val = 16 then raiseFatal .stackOverflow s.pc.toNat s
  else .next ((s.push s.pc).jumpTo (addrOperand nnn))

/-- `3xnn` SE Vx, nn (R124). -/
def execSeVxNn (x : Nibble) (nn : Byte) (s : State) : Host.Outcome State Fault Refusal :=
  .next (s.skipIf (s.getV x == nn))

/-- `4xnn` SNE Vx, nn (R125). -/
def execSneVxNn (x : Nibble) (nn : Byte) (s : State) : Host.Outcome State Fault Refusal :=
  .next (s.skipIf (s.getV x != nn))

/-- `5xy0` SE Vx, Vy (R126). -/
def execSeVxVy (x y : Nibble) (s : State) : Host.Outcome State Fault Refusal :=
  .next (s.skipIf (s.getV x == s.getV y))

/-- `9xy0` SNE Vx, Vy (R127). -/
def execSneVxVy (x y : Nibble) (s : State) : Host.Outcome State Fault Refusal :=
  .next (s.skipIf (s.getV x != s.getV y))

/-- `Bnnn` JP V0, nnn (R161): the sum is not reduced modulo 0x1000. -/
def execJpV0 (nnn : Addr12) (s : State) : Host.Outcome State Fault Refusal :=
  .next (s.jumpTo (addrOperand nnn + s.wideV 0#4))

end Sys2Proof.Machine
end

