-- ==== Sys2Proof/Machine/Index.lean ====
section
/-! DEFINITION. Meanings: the index register and the memory block operations (R160, 43_keys_timers_memory.md §3,
§4). -/

namespace Sys2Proof.Machine

/-- `Annn` LD I, nnn (R160). -/
def execLdINnn (nnn : Addr12) (s : State) : Host.Outcome State Fault Refusal :=
  .next ((s.setI (addrOperand nnn)).advance 2#16)

/-- `Fx1E` ADD I, Vx (R186): no flag; above 0xFFFF the parameter `I_OVERFLOW` decides. -/
def execAddIVx (x : Nibble) (s : State) : Host.Outcome State Fault Refusal :=
  if s.indexSum x > 0xFFFF ∧ s.cfg.iOverflow = .fault then raiseFatal .indexOverflow (s.indexSum x) s
  else .next ((s.setI (BitVec.ofNat 16 (s.indexSum x % 0x10000))).advance 2#16)

/-- `Fx29` LD F, Vx (R187). -/
def execLdFVx (x : Nibble) (s : State) : Host.Outcome State Fault Refusal :=
  .next ((s.setI (glyphAddr (s.fontDigit x))).advance 2#16)

/-- `Fx33` LD B, Vx (R188). -/
def execLdBVx (x : Nibble) (s : State) : Host.Outcome State Fault Refusal :=
  if s.blockFits 3 = false then raiseFatal .memOob s.firstOob s
  else .next ((s.setMem (Memory.writeBlock s.mem s.i.toNat (bcdDigits (s.getV x)))).advance 2#16)

/-- `Fx55` LD [I], Vx (R189). -/
def execLdMemVx (x : Nibble) (s : State) : Host.Outcome State Fault Refusal :=
  if s.blockFits (x.toNat + 1) = false then raiseFatal .memOob s.firstOob s
  else .next (((s.setMem (Memory.writeBlock s.mem s.i.toNat (s.regBytes x))).setI (s.indexAfterBlock x)).advance 2#16)

/-- `Fx65` LD Vx, [I] (R190). -/
def execLdVxMem (x : Nibble) (s : State) : Host.Outcome State Fault Refusal :=
  if s.blockFits (x.toNat + 1) = false then raiseFatal .memOob s.firstOob s
  else .next (((s.loadRegs x s.i.toNat).setI (s.indexAfterBlock x)).advance 2#16)

end Sys2Proof.Machine
end

