-- ==== Sys2Proof/Machine/KeysTimers.lean ====
section
/-! DEFINITION. Meanings: the key skips, the key wait and the timer moves (43_keys_timers_memory.md §1, §2). -/

namespace Sys2Proof.Machine

/-- `Ex9E` SKP Vx (R180). -/
def execSkp (x : Nibble) (s : State) : Host.Outcome State Fault Refusal :=
  if s.keyNumber x > 15 then raiseFatal .keyIndex (s.keyNumber x) s
  else .next (s.skipIf (s.isPressed (s.keyNumber x)))

/-- `ExA1` SKNP Vx (R181). -/
def execSknp (x : Nibble) (s : State) : Host.Outcome State Fault Refusal :=
  if s.keyNumber x > 15 then raiseFatal .keyIndex (s.keyNumber x) s
  else .next (s.skipIf (!s.isPressed (s.keyNumber x)))

/-- `Fx07` LD Vx, DT (R182): the value before this cycle's tick. -/
def execLdVxDt (x : Nibble) (s : State) : Host.Outcome State Fault Refusal :=
  .next ((s.setV x s.dt).advance 2#16)

/-- `Fx0A` LD Vx, K (R183): with no key pressed nothing changes at execute; the end of the cycle sets `AWAIT`
(Machine/Cycle.lean, log 12). -/
def execLdVxK (x : Nibble) (s : State) : Host.Outcome State Fault Refusal :=
  match s.pressedKey with
  | some k => .next ((s.setV x (BitVec.ofNat 8 k)).advance 2#16)
  | none => .next s

/-- `Fx15` LD DT, Vx (R184). -/
def execLdDtVx (x : Nibble) (s : State) : Host.Outcome State Fault Refusal :=
  .next ((s.setDt (s.getV x)).advance 2#16)

/-- `Fx18` LD ST, Vx (R185). -/
def execLdStVx (x : Nibble) (s : State) : Host.Outcome State Fault Refusal :=
  .next ((s.setSt (s.getV x)).advance 2#16)

end Sys2Proof.Machine
end

