-- ==== Sys2Proof/Machine/Cycle.lean ====
section
/-! DEFINITION. The cycle around `exec`: fetch, decode, the unknown-opcode event, the timer tick and the AWAIT update
(R90, R91). -/

namespace Sys2Proof.Machine

/-- The opcode at `pc` (R71). -/
def State.fetchWord (s : State) : Word :=
  wordOfBytes (Memory.read s.mem s.pc.toNat) (Memory.read s.mem (s.pc.toNat + 1))

/-- The fetch's own checks, in the order of R211: the end of memory (R72), then an odd `pc` where `ODD_PC = fault`
(R73, R203). -/
def State.fetchFault (s : State) : Option FaultCode :=
  if s.pc.toNat ≥ 0xFFF then some .fetchOob
  else if s.pc.toNat % 2 = 1 ∧ s.cfg.oddPc = .fault then some .oddPc
  else none

/-- A successful fetch: `OPC` is set (R71, R46), and the cycle's random byte is latched (R55, log 2, log 3). -/
def State.fetched (s : State) : State :=
  { s with opc := s.fetchWord, rnd := Config.randomByte s.free, free := s.free + 1 }

/-- One timer's tick: down by one, never below 0 (R212). -/
def tickByte (b : Byte) : Byte := if b = 0#8 then 0#8 else b - 1#8

/-- Step 6 of the cycle (R212). -/
def State.tick (s : State) : State := { s with dt := tickByte s.dt, st := tickByte s.st }

/-- The executing instruction is an `Fx0A` that finds no key pressed (R58, R183). -/
def waitsForKey (i : Instr) (s : State) : Bool :=
  match i with
  | .ldVxK _ => s.pressedKey.isNone
  | _ => false

/-- Steps 6 and 7 of a completed cycle (R90, R58). -/
def State.endCycle (s : State) (waited : Bool) : State := { s.tick with awaitKey := waited }

/-- Execute of an UNKNOWN word (R210): the event, and `pc <- P + 2`. -/
def State.emitUnknown (s : State) : State :=
  { s with events := s.events ++ [{ pc := s.pc, opcode := s.opc }], pc := s.pc + 2#16 }

/-- What follows execute: a fatal fault ends the cycle at once, otherwise steps 6 and 7 come (R90, R201). -/
def finishCycle (waited : Bool) : Host.Outcome State Fault Refusal → Host.Outcome State Fault Refusal
  | .next t => if t.halted then .next t else .next (t.endCycle waited)
  | .fault r => .fault r
  | .refused r => .refused r

/-- Steps 4 to 7 of the cycle, after a successful fetch. -/
def runFetched (s : State) : Host.Outcome State Fault Refusal :=
  match decodeWord s.cfg.decodeMode s.opc with
  | some i => finishCycle (waitsForKey i s) (exec i s)
  | none => .next (s.emitUnknown.endCycle false)

/-- Steps 2 to 7 of the cycle (R90). -/
def runCycle (s : State) : Host.Outcome State Fault Refusal :=
  match s.fetchFault with
  | some code => .next (s.takeFault code none s.pc.toNat)
  | none => runFetched s.fetched

/-- The state with a table word's bytes at `pc`, where the next fetch reads them (R71). -/
def State.placeWord (s : State) (nbits w : Nat) : State :=
  s.setMem (Memory.writeBlock s.mem s.pc.toNat (tableBytes nbits w))

end Sys2Proof.Machine
end

