-- ==== Sys2Proof/Machine/Step.lean ====
section
/-! DEFINITION. One `step_cycle()` (R90). -/

namespace Sys2Proof.Machine

/-- One call of `step_cycle()`: while `HALTED = 1` the core has no step (R90 step 1, R201; log 6), otherwise one
cycle. -/
def step (s : State) : Host.Outcome State Fault Refusal :=
  if s.halted then .fault .halted else runCycle s

/-- The state with the table's instruction stored where `step` fetches next (log 9). -/
def State.withFetchWord (s : State) (nbits w : Nat) : State := s.placeWord nbits w

end Sys2Proof.Machine
end

