-- ==== Sys2Proof/Machine/HostOps.lean ====
section
/-! DEFINITION. The host operations of R53, each atomic and between cycles (log 8). -/

namespace Sys2Proof.Machine

/-- The memory right after reset with a given `FONT`: the table at 0x000-0x04F, 0 elsewhere (R60). -/
def Memory.ofFont (font : Vector Byte 80) : Memory := Memory.writeBlock [] 0x000 font.toList

/-- `initialize()` (R230): every core element takes its reset value; `KEY`, `FB`, the parameters, the random input and
the model's counter stay (the counter, so that no free value is drawn twice; log 3). -/
def State.initializeCore (s : State) : State :=
  { State.reset with
    mem := Memory.ofFont s.cfg.font
    key := s.key
    fb := s.fb
    rnd := s.rnd
    cfg := s.cfg
    free := s.free }

/-- `load_program(bytes)` (R233, R209). -/
def State.loadProgram (s : State) (bytes : List Byte) : Host.Outcome State Fault Refusal :=
  if s.halted then .refused .loadWhileHalted
  else if bytes.length > 3584 then .next (s.takeFault .loadOverflow none 0x1000)
  else .next ((s.setMem (Memory.writeBlock s.mem 0x200 bytes)).jumpTo 0x200#16)

/-- `set_key_state(key, pressed)` (R217). -/
def State.setKeyState (s : State) (key : Nat) (pressed : Bool) : Host.Outcome State Fault Refusal :=
  if key > 15 then .refused .keyOutOfRange
  else .next { s with key := s.key.setIfInBounds key pressed }

/-- `present()` changes no state (R218); what the output surface shows is out of scope (R7). -/
def State.present (s : State) : Host.Outcome State Fault Refusal := .next s

/-- What the host may do between two cycles (R53). -/
inductive HostMove where
  | reset
  | loadProgram (bytes : List Byte)
  | stepCycle
  | setKeyState (key : Nat) (pressed : Bool)
  | present
  deriving DecidableEq, Repr

/-- One host move. A `step_cycle()` while `HALTED = 1` changes nothing (R201; log 6). -/
def hostMove (m : HostMove) (s : State) : Host.Outcome State Fault Refusal :=
  match m with
  | .reset => .next s.initializeCore
  | .loadProgram bytes => s.loadProgram bytes
  | .stepCycle => if s.halted then .next s else step s
  | .setKeyState key pressed => s.setKeyState key pressed
  | .present => s.present

end Sys2Proof.Machine
end

