-- ==== Sys2Proof/Safety.lean ====
section
/-! DEFINITION. What counts as a safe state, a fault taken and a safe run, in the terms the statements use. -/

namespace Sys2Proof.Machine

/-- The core may take a step: no fatal fault has halted it (R47). -/
def State.running (s : State) : Prop := s.halted = false

/-- The fetch at `pc` passes its checks (R72, R73). -/
def State.fetchable (s : State) : Prop :=
  s.pc.toNat ≤ 0xFFE ∧ (s.cfg.oddPc = .fault → s.pc.toNat % 2 = 0)

/-- What R201 specifies of the state `t` after a fatal fault taken in `s`: the core is halted, the record is
`{code, pc, opcode, addr}`, no event is appended and `AWAIT` is unchanged. -/
def faultTaken (s t : State) (code : FaultCode) (opcode : Option Word) (addr : Nat) : Prop :=
  t.halted = true ∧ t.fault = some { code := code, pc := s.pc, opcode := opcode, addr := addr } ∧
    t.events = s.events ∧ t.awaitKey = s.awaitKey

/-- What the MODEL keeps besides across a fatal fault taken in `s`: the timers and the keys, by its own reading (log 5;
D13 and U9 leave the timers any value), and the parameters, which it carries in the state (log 1). -/
def faultKeeps (s t : State) : Prop := t.dt = s.dt ∧ t.st = s.st ∧ t.key = s.key ∧ t.cfg = s.cfg

/-- The instruction answers a next state in which its fatal fault is taken: `FAULT.opcode` is `OPC`. -/
def execFaults (i : Instr) (s : State) (code : FaultCode) (addr : Nat) : Prop :=
  ∃ t, exec i s = .next t ∧ faultTaken s t code (some s.opc) addr

/-- `FAULT` holds a record exactly while `HALTED = 1` (R47, R60, R201). -/
def State.faultRecorded (s : State) : Prop := s.fault.isSome = s.halted

/-- While the core runs, `pc` is at most 0x10FE (R37) and every occupied stack entry is the address of a fetched call,
at most 0xFFE (R121, R123). After a fatal fault neither is specified (R201). -/
def State.addressesInRange (s : State) : Prop :=
  s.halted = false → s.pc.toNat ≤ 0x10FE ∧ ∀ k < s.sp.val, (s.stackAt k).toNat ≤ 0xFFE

/-- The state invariant: canonical memory, a fault record exactly when halted, addresses in range. -/
structure State.Inv (s : State) : Prop where
  memory : Memory.wf s.mem = true
  faultRecord : s.faultRecorded
  addresses : s.addressesInRange

/-- The instruction the next cycle of `s` decodes, `none` for an UNKNOWN word. -/
def State.decoded (s : State) : Option Instr := decodeWord s.cfg.decodeMode s.fetchWord

/-- `k` further cycles complete without a fatal fault and lead from `s` to `t`, and `p` holds of what each of them
decodes. -/
def safeRun (p : Option Instr → Prop) : Nat → State → State → Prop
  | 0, s, t => s = t
  | k + 1, s, t => ∃ u, p s.decoded ∧ step s = .next u ∧ u.halted = false ∧ safeRun p k u t

end Sys2Proof.Machine
end

