-- ==== Sys2Proof/Certificates/Slice0/Obligations.lean ====
section
/-! DEFINITION. The statements for the provers. Each docstring names the rule of spec/ it formalises; a statement that
rests on a decision, a derivation or general knowledge the spec marks as its own says so and has basis 'derived'. -/

namespace Sys2Proof.Statements

open Sys2Proof.Machine

/-- Every word with `(op & mask) = pattern` decodes to the instruction built from the word's fields. -/
def decodesBy (mode : DecodeMode) (mask pattern : Word) (build : Word → Instr) : Prop :=
  ∀ op, op &&& mask = pattern → decodeWord mode op = some (build op)

/-- `x = op[11:8]`, `y = op[7:4]`, `n = op[3:0]`, `nn = op[7:0]`, `nnn = op[11:0]` (R94). -/
abbrev xOf (op : Word) : Nibble := op.extractLsb' 8 4
abbrev yOf (op : Word) : Nibble := op.extractLsb' 4 4
abbrev nOf (op : Word) : Nibble := op.extractLsb' 0 4
abbrev nnOf (op : Word) : Byte := op.extractLsb' 0 8
abbrev nnnOf (op : Word) : Addr12 := op.extractLsb' 0 12

/-- From `s` to `t` V[x] took `b`, `pc` advanced 2, and nothing else changed. -/
def writesReg (s t : State) (x : Nibble) (b : Byte) : Prop :=
  t.getV x = b ∧ (∀ y, y ≠ x → t.getV y = s.getV y) ∧ t.pc = s.pc + 2#16 ∧ t = { s with v := t.v, pc := t.pc }

/-- From `s` to `t` V[x] took the result and VF the flag (for x = 0xF the one `VF_ORDER` writes last), `pc` advanced 2,
and nothing else changed. -/
def writesResultAndFlag (s t : State) (x : Nibble) (r f : Byte) : Prop :=
  (x ≠ 0xF#4 → t.getV x = r ∧ t.getV 0xF#4 = f) ∧
    (x = 0xF#4 → t.getV 0xF#4 = if s.cfg.vfOrder = .flagLast then f else r) ∧
    (∀ y, y ≠ x → y ≠ 0xF#4 → t.getV y = s.getV y) ∧ t.pc = s.pc + 2#16 ∧ t = { s with v := t.v, pc := t.pc }

/-- From `s` to `t` `pc` advanced 4 where the condition holds and 2 where not, and nothing else changed. -/
def skips (s t : State) (c : Prop) [Decidable c] : Prop :=
  t.pc = s.pc + (if c then 4#16 else 2#16) ∧ t = { s with pc := t.pc }

/-- A set bit of the sprite of `Dxyn` falls on the pixel (R166). -/
def spriteCovers (s : State) (x y n : Nibble) (c : Fin 64) (r : Fin 32) : Prop :=
  ∃ k b : Nat, k < n.toNat ∧ b < 8 ∧ (Memory.read s.mem (s.i.toNat + k)).getLsbD b = true ∧
    c.val = ((s.getV x).toNat % 64 + (7 - b)) % 64 ∧ r.val = ((s.getV y).toNat % 32 + k) % 32

/-- The general registers an instruction may write (R33). -/
def mayWriteReg : Instr → Nibble → Prop
  | .ldVxNn x _, y | .addVxNn x _, y | .ldVxVy x _, y | .orVxVy x _, y | .andVxVy x _, y | .xorVxVy x _, y
  | .rndVxNn x _, y | .ldVxDt x, y | .ldVxK x, y => y = x
  | .addVxVy x _, y | .subVxVy x _, y | .shrVx x _, y | .subnVxVy x _, y | .shlVx x _, y => y = x ∨ y = 0xF#4
  | .drw _ _ _, y => y = 0xF#4
  | .ldVxMem x, y => y.toNat ≤ x.toNat
  | _, _ => False

/-- The condition under which an instruction raises its own fatal fault (R202). -/
def faultCondition : Instr → State → Prop
  | .ret, s => s.sp.val = 0
  | .call _, s => s.sp.val = 16
  | .drw _ _ n, s => n ≠ 0#4 ∧ s.i.toNat + n.toNat - 1 > 0xFFF
  | .skp x, s | .sknp x, s => (s.getV x).toNat > 15
  | .addIVx x, s => s.i.toNat + (s.getV x).toNat > 0xFFFF ∧ s.cfg.iOverflow = .fault
  | .ldBVx _, s => s.i.toNat + 2 > 0xFFF
  | .ldMemVx x, s | .ldVxMem x, s => s.i.toNat + x.toNat > 0xFFF
  | _, _ => False

end Sys2Proof.Statements

open Sys2Proof Sys2Proof.Machine Sys2Proof.Statements

/-- Under both decode modes the word and the bytes of every instruction decode to it. R92, R94, R105: no bit of an encoding is dropped, for every instruction at every operand value, under both values of the
parameter `DECODE_MODE` (the spec's decision D5). -/
def Obligations.DecodeOfEncodeIsIdentity : Prop :=
  ∀ (mode : DecodeMode) (i : Instr),
    decodeWord mode (encode i) = some i ∧
      ∀ rest, decode mode (encodeBytes i ++ rest) = .ok (i, rest)

/-- Under strict decode a word that decodes to an instruction is that instruction's word. R96, R107: under `strict` no two words stand for one instruction (D5 makes strict the default). -/
def Obligations.EncodeOfStrictDecodeIsIdentity : Prop :=
  ∀ (op : Word) (i : Instr), decodeWord .strict op = some i → encode i = op

/-- Decode is the match and mask of the opcode map, and UNKNOWN exactly off the map. R96, R102, R103 under both settings of D5's parameter. -/
def Obligations.DecodeFollowsOpcodeMap : Prop :=
  ∀ (mode : DecodeMode) (op : Word),
    (∀ i, decodeWord mode op = some i → (opcodeRow i).accepts mode op = true) ∧
      (decodeWord mode op = none ↔ ∀ row ∈ opcodeMap, row.accepts mode op = false)

/-- A few words written out from the opcode map decode to their instructions. R105, on words written out from its match and mask columns. -/
def Obligations.WrittenOutWordsDecode : Prop :=
  ∀ mode : DecodeMode,
    decodeWord mode 0x1234#16 = some (.jp 0x234#12) ∧ decodeWord mode 0x2300#16 = some (.call 0x300#12) ∧
      decodeWord mode 0x8AB6#16 = some (.shrVx 0xA#4 0xB#4) ∧ decodeWord mode 0xA2F0#16 = some (.ldINnn 0x2F0#12) ∧
      decodeWord mode 0xD125#16 = some (.drw 1#4 2#4 5#4) ∧ decodeWord mode 0xE19E#16 = some (.skp 1#4) ∧
      decodeWord mode 0xF20A#16 = some (.ldVxK 2#4) ∧ decodeWord mode 0xF155#16 = some (.ldMemVx 1#4)

/-- The fetched opcode is the byte at pc as high byte and the byte at pc + 1 as low byte. R71. The last clause: OPC is set by the fetch. -/
def Obligations.FetchIsBigEndian : Prop :=
  (∀ s : State,
      s.fetchWord = ((Memory.read s.mem s.pc.toNat).setWidth 16 <<< 8) |||
        (Memory.read s.mem (s.pc.toNat + 1)).setWidth 16 ∧
      s.fetchWord.extractLsb' 8 8 = Memory.read s.mem s.pc.toNat ∧
      s.fetchWord.extractLsb' 0 8 = Memory.read s.mem (s.pc.toNat + 1)) ∧
    ∀ s t : State, step s = .next t → t.halted = false → t.opc = s.fetchWord

/-- A step of a running core runs the instruction its two bytes decode to, then ticks and updates AWAIT. R90 steps 2 to 7, R91, in the model's own names: around `exec` the step sets `OPC` and latches the random byte (log 2,
log 3) before, and ticks and sets `AWAIT` after (log 12). -/
def Obligations.StepRunsDecodedInstruction : Prop :=
  ∀ (s : State) (i : Instr), s.running → s.fetchable → s.decoded = some i →
    ∃ t, exec i { s with opc := s.fetchWord, rnd := Config.randomByte s.free, free := s.free + 1 } = .next t ∧
      step s = .next (if t.halted then t else
        { t with
          dt := if t.dt = 0#8 then 0#8 else t.dt - 1#8
          st := if t.st = 0#8 then 0#8 else t.st - 1#8
          awaitKey := waitsForKey i s })

/-- A fetch at 0xFFF or above takes FETCH_OOB; a fetch at 0xFFE reads the last two bytes. R72. That the timers, which R72 says do not count down, and the keys hold their values after the fault is the model's
reading (log 5: D13 and U9 leave DT and ST any value); that the parameters do is log 1. -/
def Obligations.FetchPastEndFaults : Prop :=
  (∀ s : State, s.running → s.pc.toNat ≥ 0xFFF →
      ∃ t, step s = .next t ∧ faultTaken s t .fetchOob none s.pc.toNat ∧ faultKeeps s t) ∧
    ∀ s : State, s.running → s.pc = 0xFFE#16 →
      s.fetchWord = wordOfBytes (Memory.read s.mem 0xFFE) (Memory.read s.mem 0xFFF) ∧ step s = runFetched s.fetched

/-- With ODD_PC = fault an odd pc takes ODD_PC; with ODD_PC = fetch it is fetched like an even one. R73, R203 under both settings of D6's parameter. Of the state after the fault it claims what R201
specifies and nothing of log 5. -/
def Obligations.OddPcFaultsOnlyUnderParameter : Prop :=
  ∀ s : State, s.running → s.pc.toNat % 2 = 1 → s.pc.toNat < 0xFFF →
    (s.cfg.oddPc = .fault → ∃ t, step s = .next t ∧ faultTaken s t .oddPc none s.pc.toNat) ∧
      (s.cfg.oddPc = .fetch → step s = runFetched s.fetched)

/-- While HALTED = 1 a step is the stuck state, and initialize() ends it. R90 step 1 and R201 (D13). The stuck state's form is the model's (log 6). -/
def Obligations.HaltedCoreHasNoStep : Prop :=
  ∀ s : State, s.halted = true →
    step s = .fault .halted ∧ hostMove .stepCycle s = .next s ∧ s.initializeCore.running

/-- An UNKNOWN word completes its cycle: OPC latched, one event, pc + 2, timers ticked, AWAIT 0, no other element of R30 changed. R210 (D23, D21). OPC is R46's latch. The clauses for `rnd` and `free` are the model's: the draw of the cycle's random
byte (R55) is log 2, the two fields are log 3. -/
def Obligations.UnknownWordCycle : Prop :=
  ∀ s : State, s.running → s.fetchable → s.decoded = none →
    step s = .next { s with
      opc := s.fetchWord
      rnd := Config.randomByte s.free
      free := s.free + 1
      events := s.events ++ [{ pc := s.pc, opcode := s.fetchWord }]
      pc := s.pc + 2#16
      dt := if s.dt = 0#8 then 0#8 else s.dt - 1#8
      st := if s.st = 0#8 then 0#8 else s.st - 1#8
      awaitKey := false }

/-- A word 8xyk with k = 8 to D or F is UNKNOWN: no register changes, one event, pc + 2. R152. -/
def Obligations.UnlistedAluWordIsUnknown : Prop :=
  ∀ (x y k : Nibble), k ∈ [8#4, 9#4, 0xA#4, 0xB#4, 0xC#4, 0xD#4, 0xF#4] →
    (∀ mode, decodeWord mode (encodeXyn 8#4 x y k) = none) ∧
      ∀ s : State, s.running → s.fetchable → s.fetchWord = encodeXyn 8#4 x y k →
        ∃ t, step s = .next t ∧ t.v = s.v ∧ t.i = s.i ∧ t.pc = s.pc + 2#16 ∧
          t.events = s.events ++ [{ pc := s.pc, opcode := encodeXyn 8#4 x y k }]

/-- In every completed cycle each timer goes down by one unless zero, unless the cycle wrote it. R42, R43, R212 (D21): whatever the instruction, UNKNOWN and waiting cycles included. -/
def Obligations.TimersTickEveryCompletedCycle : Prop :=
  ∀ s t : State, step s = .next t → t.halted = false →
    ((∀ x, s.decoded ≠ some (.ldDtVx x)) → t.dt.toNat = s.dt.toNat - 1) ∧
      ((∀ x, s.decoded ≠ some (.ldStVx x)) → t.st.toNat = s.st.toNat - 1)

/-- With no host operation between cycles, k completed cycles that do not write DT take it from d to d - k, never below 0. The spec derives R213; the source's property E10. The runs are steps in a row: no host operation comes between two
cycles, which is the model's restriction (log 8). -/
def Obligations.DelayTimerCountsDownOverCycles : Prop :=
  ∀ (k : Nat) (s t : State), safeRun (fun d => ∀ x, d ≠ some (.ldDtVx x)) k s t →
    t.dt.toNat = s.dt.toNat - k

/-- After a completed cycle AWAIT is 1 exactly if its instruction was an Fx0A that found no key pressed. R58 (D1). -/
def Obligations.AwaitReportsWaitingKeyInstruction : Prop :=
  ∀ s t : State, step s = .next t → t.halted = false →
    (t.awaitKey = true ↔ (∃ x, s.decoded = some (.ldVxK x)) ∧ ∀ k < 16, s.isPressed k = false)

/-- Every step keeps memory canonical, FAULT set exactly while halted, and pc and return addresses in range. R37 (derived by the spec), R47, R121's remark that `STACK[SP] <= 0xFFE`. The canonical form of memory is the model's
own (log 7). -/
def Obligations.StepKeepsStateInvariant : Prop :=
  ∀ s t : State, s.Inv → step s = .next t → t.Inv

/-- The state after reset has the state invariant. R60; that memory has the model's canonical form is log 7. -/
def Obligations.ResetHasStateInvariant : Prop :=
  State.reset.Inv

/-- Every host operation keeps the state invariant. R53: the operations through which the host drives the block (D14, D18, D19). The canonical form of memory is the model's own
(log 7), and each move is a function beside `step` (log 8). -/
def Obligations.HostMovesKeepStateInvariant : Prop :=
  ∀ (m : HostMove) (s t : State), s.Inv → hostMove m s = .next t → t.Inv

/-- A completed cycle changes SP or the stack only if its instruction is 2nnn or 00EE. R40; R41 (derived by the spec). -/
def Obligations.OnlyCallAndReturnTouchStack : Prop :=
  ∀ s t : State, step s = .next t → t.halted = false → s.decoded ≠ some .ret → (∀ nnn, s.decoded ≠ some (.call nnn)) →
    t.sp = s.sp ∧ t.stack = s.stack

/-- A completed cycle changes the framebuffer only if its instruction is 00E0 or Dxyn. R52: FB is written only by `Display.clear()` and `Display.draw`, which R54 gives to 00E0 and Dxyn. -/
def Obligations.OnlyClearAndDrawTouchDisplay : Prop :=
  ∀ s t : State, step s = .next t → t.halted = false → s.decoded ≠ some .cls →
    (∀ x y n, s.decoded ≠ some (.drw x y n)) → t.fb = s.fb

/-- A completed cycle changes I only if its instruction is Annn, Fx1E, Fx29, Fx55 or Fx65. R39's list of the writers of `I`. -/
def Obligations.OnlyIndexInstructionsWriteIndex : Prop :=
  ∀ s t : State, step s = .next t → t.halted = false → t.i ≠ s.i →
    ∃ i, s.decoded = some i ∧ ((∃ nnn, i = .ldINnn nnn) ∨ (∃ x, i = .addIVx x) ∨ (∃ x, i = .ldFVx x) ∨
      (∃ x, i = .ldMemVx x) ∨ ∃ x, i = .ldVxMem x)

/-- A completed cycle changes memory only if its instruction is Fx33 or Fx55. R74's list of the accesses that write. -/
def Obligations.OnlyStoresWriteMemory : Prop :=
  ∀ (s t : State) (a : Nat), step s = .next t → t.halted = false → Memory.read t.mem a ≠ Memory.read s.mem a →
    ∃ x, s.decoded = some (.ldBVx x) ∨ s.decoded = some (.ldMemVx x)

/-- A completed execute changes V[y] only if R33 lists the instruction as a writer of V[y]. R32; R33 (derived by the spec). -/
def Obligations.OnlyListedInstructionsWriteRegisters : Prop :=
  ∀ (i : Instr) (s t : State) (y : Nibble), exec i s = .next t → t.halted = s.halted → s.halted = false →
    t.getV y ≠ s.getV y → mayWriteReg i y

/-- An instruction of a running core takes a fatal fault exactly under its condition in the fault table. R202's table, R204 to R208, R211 (D8, D3, D12). -/
def Obligations.OnlyListedConditionsFault : Prop :=
  ∀ (i : Instr) (s t : State), s.halted = false → exec i s = .next t →
    (t.halted = true ↔ faultCondition i s)

/-- A step that halts the core records P and the opcode, appends no event and, in the model, keeps timers and keys. R201, R202 (D12, D13). `faultKeeps` is the model's: that DT, ST and the keys are as before is its reading of 'the timers
do not count down' and of R51 (log 5; D13 and U9 leave DT and ST any value), that the parameters are is log 1. -/
def Obligations.FatalFaultRecordsItsCycle : Prop :=
  ∀ s t : State, step s = .next t → t.halted = true →
    ∃ code addr, code ≠ .loadOverflow ∧
      faultTaken s t code (if code = .fetchOob ∨ code = .oddPc then none else some s.fetchWord) addr ∧
        faultKeeps s t

/-- No step changes a key state or a configuration parameter. R51 (D25); R14's parameters are fixed for the machine (log 1). That a faulting cycle leaves the keys is the model's
reading (log 5). -/
def Obligations.StepLeavesKeysAndParameters : Prop :=
  ∀ s t : State, step s = .next t → t.key = s.key ∧ t.cfg = s.cfg

/-- A step leaves EVENTS as it is or, in an UNKNOWN cycle alone, appends the one event of that cycle. R48, R210 (D23). -/
def Obligations.EventsOnlyAppend : Prop :=
  ∀ s t : State, step s = .next t →
    (s.fetchable ∧ s.decoded = none → t.events = s.events ++ [{ pc := s.pc, opcode := s.fetchWord }]) ∧
      (¬(s.fetchable ∧ s.decoded = none) → t.events = s.events)

/-- An even pc stays even in every instruction but a jump, call or indexed jump to an odd target. R36 (derived by the spec). -/
def Obligations.EvenPcKeptBySequentialCode : Prop :=
  ∀ (i : Instr) (s t : State), exec i s = .next t → t.halted = false →
    s.pc.toNat % 2 = 0 → (∀ k < s.sp.val, (s.stackAt k).toNat % 2 = 0) →
    (∀ nnn, (i = .jp nnn ∨ i = .call nnn) → nnn.toNat % 2 = 0) →
    (∀ nnn, i = .jpV0 nnn → (nnn.toNat + (s.getV 0#4).toNat) % 2 = 0) →
    t.pc.toNat % 2 = 0 ∧ ∀ k < t.sp.val, (t.stackAt k).toNat % 2 = 0

/-- 00E0 turns every pixel off, advances 2 and changes nothing else. R120. -/
def Obligations.ClearDisplayResult : Prop :=
  decodesBy .strict 0xFFFF#16 0x00E0#16 (fun _ => .cls) ∧
    ∀ s : State, ∃ t, exec .cls s = .next t ∧ (∀ c r, Framebuffer.get t.fb c r = false) ∧ t.pc = s.pc + 2#16 ∧
      t = { s with fb := t.fb, pc := t.pc }

/-- 00EE pops the call's address and resumes 2 above it; with an empty stack it takes STACK_UNDERFLOW. R121, R205. Of the state after the fault it claims what R201
specifies and nothing of log 5. The
low_field words of RET are in DecodeFollowsOpcodeMap. -/
def Obligations.ReturnResult : Prop :=
  decodesBy .strict 0xFFFF#16 0x00EE#16 (fun _ => .ret) ∧
    (∀ s : State, 0 < s.sp.val → ∃ t, exec .ret s = .next t ∧ t.sp.val = s.sp.val - 1 ∧
      t.pc = s.stackAt t.sp.val + 2#16 ∧ t = { s with sp := t.sp, pc := t.pc }) ∧
    ∀ s : State, s.sp.val = 0 → execFaults .ret s .stackUnderflow s.pc.toNat

/-- 1nnn sets pc to nnn and changes nothing else. R122. -/
def Obligations.JumpResult : Prop :=
  (∀ mode, decodesBy mode 0xF000#16 0x1000#16 (fun op => .jp (nnnOf op))) ∧
    ∀ (nnn : Addr12) (s : State), ∃ t, exec (.jp nnn) s = .next t ∧ t.pc.toNat = nnn.toNat ∧ t = { s with pc := t.pc }

/-- 2nnn pushes its own address and jumps; with a full stack it takes STACK_OVERFLOW. R123, R204. Of the state after the fault it claims what R201
specifies and nothing of log 5. -/
def Obligations.CallResult : Prop :=
  (∀ mode, decodesBy mode 0xF000#16 0x2000#16 (fun op => .call (nnnOf op))) ∧
    (∀ (nnn : Addr12) (s : State), s.sp.val < 16 → ∃ t, exec (.call nnn) s = .next t ∧
      t.stackAt s.sp.val = s.pc ∧ (∀ k, k ≠ s.sp.val → t.stackAt k = s.stackAt k) ∧ t.sp.val = s.sp.val + 1 ∧
      t.pc.toNat = nnn.toNat ∧ t = { s with stack := t.stack, sp := t.sp, pc := t.pc }) ∧
    ∀ (nnn : Addr12) (s : State), s.sp.val = 16 → execFaults (.call nnn) s .stackOverflow s.pc.toNat

/-- A call and the matching return resume after the call with SP as before. R129 (derived by the spec from R121, R123; the source's property E6). -/
def Obligations.CallThenReturnRestores : Prop :=
  ∀ (nnn : Addr12) (s : State), s.sp.val < 16 → ∃ t, exec (.call nnn) s = .next t ∧
    ∀ u : State, u.sp = t.sp → u.stackAt s.sp.val = t.stackAt s.sp.val →
      ∃ w, exec .ret u = .next w ∧ w.pc = s.pc + 2#16 ∧ w.sp = s.sp

/-- 3xnn advances 4 if V[x] = nn else 2, 4xnn the other way round, and neither changes anything else. R124, R125. -/
def Obligations.ImmediateSkipResult : Prop :=
  (∀ mode, decodesBy mode 0xF000#16 0x3000#16 (fun op => .seVxNn (xOf op) (nnOf op)) ∧
      decodesBy mode 0xF000#16 0x4000#16 (fun op => .sneVxNn (xOf op) (nnOf op))) ∧
    ∀ (x : Nibble) (nn : Byte) (s : State),
      (∃ t, exec (.seVxNn x nn) s = .next t ∧ skips s t (s.getV x = nn)) ∧
        ∃ t, exec (.sneVxNn x nn) s = .next t ∧ skips s t (s.getV x ≠ nn)

/-- 5xy0 advances 4 if V[x] = V[y] else 2, 9xy0 the other way round, and neither changes anything else. R126, R127; the decode clauses are D5's under both settings. -/
def Obligations.RegisterSkipResult : Prop :=
  (decodesBy .strict 0xF00F#16 0x5000#16 (fun op => .seVxVy (xOf op) (yOf op)) ∧
      decodesBy .strict 0xF00F#16 0x9000#16 (fun op => .sneVxVy (xOf op) (yOf op)) ∧
      decodesBy .lowField 0xF000#16 0x5000#16 (fun op => .seVxVy (xOf op) (yOf op)) ∧
      decodesBy .lowField 0xF000#16 0x9000#16 (fun op => .sneVxVy (xOf op) (yOf op))) ∧
    ∀ (x y : Nibble) (s : State),
      (∃ t, exec (.seVxVy x y) s = .next t ∧ skips s t (s.getV x = s.getV y)) ∧
        ∃ t, exec (.sneVxVy x y) s = .next t ∧ skips s t (s.getV x ≠ s.getV y)

/-- 6xnn loads nn and 7xnn adds nn modulo 256 into V[x], with no flag, advancing 2. R140, R141. -/
def Obligations.ImmediateLoadAndAddResult : Prop :=
  (∀ mode, decodesBy mode 0xF000#16 0x6000#16 (fun op => .ldVxNn (xOf op) (nnOf op)) ∧
      decodesBy mode 0xF000#16 0x7000#16 (fun op => .addVxNn (xOf op) (nnOf op))) ∧
    ∀ (x : Nibble) (nn : Byte) (s : State),
      (∃ t, exec (.ldVxNn x nn) s = .next t ∧ writesReg s t x nn) ∧
        ∃ t, exec (.addVxNn x nn) s = .next t ∧
          writesReg s t x (BitVec.ofNat 8 (((s.getV x).toNat + nn.toNat) % 256))

/-- 8xy0 to 8xy3 copy, OR, AND and XOR V[y] into V[x], with no flag, advancing 2. R143 to R146. -/
def Obligations.CopyAndLogicResult : Prop :=
  (∀ mode, decodesBy mode 0xF00F#16 0x8000#16 (fun op => .ldVxVy (xOf op) (yOf op)) ∧
      decodesBy mode 0xF00F#16 0x8001#16 (fun op => .orVxVy (xOf op) (yOf op)) ∧
      decodesBy mode 0xF00F#16 0x8002#16 (fun op => .andVxVy (xOf op) (yOf op)) ∧
      decodesBy mode 0xF00F#16 0x8003#16 (fun op => .xorVxVy (xOf op) (yOf op))) ∧
    ∀ (x y : Nibble) (s : State),
      (∃ t, exec (.ldVxVy x y) s = .next t ∧ writesReg s t x (s.getV y)) ∧
        (∃ t, exec (.orVxVy x y) s = .next t ∧ writesReg s t x (s.getV x ||| s.getV y)) ∧
        (∃ t, exec (.andVxVy x y) s = .next t ∧ writesReg s t x (s.getV x &&& s.getV y)) ∧
        ∃ t, exec (.xorVxVy x y) s = .next t ∧ writesReg s t x (s.getV x ^^^ s.getV y)

/-- 8xy4 writes the sum modulo 256 to V[x] and the carry out of bit 7 to VF. R147. The clause for x = 0xF is R142's, which the spec decides in D7; it is stated for both values of the parameter
`VF_ORDER`, so it rests on neither. -/
def Obligations.AddWithCarryResult : Prop :=
  (∀ mode, decodesBy mode 0xF00F#16 0x8004#16 (fun op => .addVxVy (xOf op) (yOf op))) ∧
    ∀ (x y : Nibble) (s : State), ∃ t, exec (.addVxVy x y) s = .next t ∧
      writesResultAndFlag s t x (BitVec.ofNat 8 (((s.getV x).toNat + (s.getV y).toNat) % 256))
        (if (s.getV x).toNat + (s.getV y).toNat > 255 then 1#8 else 0#8)

/-- 8xy5 and 8xy7 write the difference modulo 256 to V[x] and NOT borrow to VF. R148, R150. For the clause x = 0xF see AddWithCarryResult. -/
def Obligations.SubtractResult : Prop :=
  (∀ mode, decodesBy mode 0xF00F#16 0x8005#16 (fun op => .subVxVy (xOf op) (yOf op)) ∧
      decodesBy mode 0xF00F#16 0x8007#16 (fun op => .subnVxVy (xOf op) (yOf op))) ∧
    ∀ (x y : Nibble) (s : State),
      (∃ t, exec (.subVxVy x y) s = .next t ∧
        writesResultAndFlag s t x (BitVec.ofInt 8 (((s.getV x).toNat - (s.getV y).toNat : Int) % 256))
          (if (s.getV y).toNat > (s.getV x).toNat then 0#8 else 1#8)) ∧
        ∃ t, exec (.subnVxVy x y) s = .next t ∧
          writesResultAndFlag s t x (BitVec.ofInt 8 (((s.getV y).toNat - (s.getV x).toNat : Int) % 256))
            (if (s.getV x).toNat > (s.getV y).toNat then 0#8 else 1#8)

/-- 8xy6 and 8xyE shift V[x] by one and write the bit shifted out to VF; V[y] plays no part. R149, R151. For the clause x = 0xF see AddWithCarryResult. -/
def Obligations.ShiftResult : Prop :=
  (∀ mode, decodesBy mode 0xF00F#16 0x8006#16 (fun op => .shrVx (xOf op) (yOf op)) ∧
      decodesBy mode 0xF00F#16 0x800E#16 (fun op => .shlVx (xOf op) (yOf op))) ∧
    ∀ (x y : Nibble) (s : State),
      (∃ t, exec (.shrVx x y) s = .next t ∧ writesResultAndFlag s t x (s.getV x >>> 1) (s.getV x &&& 1#8)) ∧
        ∃ t, exec (.shlVx x y) s = .next t ∧ writesResultAndFlag s t x (s.getV x <<< 1) (s.getV x >>> 7)

/-- Annn sets I to nnn; Bnnn sets pc to nnn + V0, not reduced. R160, R161. -/
def Obligations.IndexLoadAndIndexedJumpResult : Prop :=
  (∀ mode, decodesBy mode 0xF000#16 0xA000#16 (fun op => .ldINnn (nnnOf op)) ∧
      decodesBy mode 0xF000#16 0xB000#16 (fun op => .jpV0 (nnnOf op))) ∧
    ∀ (nnn : Addr12) (s : State),
      (∃ t, exec (.ldINnn nnn) s = .next t ∧ t.i.toNat = nnn.toNat ∧ t.pc = s.pc + 2#16 ∧
        t = { s with i := t.i, pc := t.pc }) ∧
        ∃ t, exec (.jpV0 nnn) s = .next t ∧ t.pc.toNat = nnn.toNat + (s.getV 0#4).toNat ∧ t = { s with pc := t.pc }

/-- Cxnn writes nn AND the cycle's random byte to V[x], whatever the byte, and nothing else. R162, R55 (D24). The draw is a free value (log 2) and `free` the
model's counter (log 3): the statement holds for every value of it. -/
def Obligations.RandomByteResult : Prop :=
  (∀ mode, decodesBy mode 0xF000#16 0xC000#16 (fun op => .rndVxNn (xOf op) (nnOf op))) ∧
    (∀ (x : Nibble) (nn : Byte) (s : State), ∃ t, exec (.rndVxNn x nn) s = .next t ∧ writesReg s t x (nn &&& s.rnd)) ∧
    ∀ (x : Nibble) (nn : Byte) (s : State), s.running → s.fetchable → s.decoded = some (.rndVxNn x nn) →
      ∃ t, step s = .next t ∧ t.getV x = nn &&& Config.randomByte s.free ∧ t.free = s.free + 1

/-- Dxyn XORs the sprite onto the display with wrap and writes the collision to VF. R163, R164, R216. Coordinates, wrap and bit order are R165 to R168 (D10, D11; the bit order is the spec's general
knowledge, log 11). -/
def Obligations.DrawSpriteResult : Prop :=
  (∀ mode, decodesBy mode 0xF000#16 0xD000#16 (fun op => .drw (xOf op) (yOf op) (nOf op))) ∧
    ∀ (x y n : Nibble) (s : State), (n = 0#4 ∨ s.i.toNat + n.toNat - 1 ≤ 0xFFF) →
      ∃ t, exec (.drw x y n) s = .next t ∧
        (∀ c r, spriteCovers s x y n c r → Framebuffer.get t.fb c r = !Framebuffer.get s.fb c r) ∧
        (∀ c r, ¬spriteCovers s x y n c r → Framebuffer.get t.fb c r = Framebuffer.get s.fb c r) ∧
        ((∃ c r, spriteCovers s x y n c r ∧ Framebuffer.get s.fb c r = true) → t.getV 0xF#4 = 1#8) ∧
        ((¬∃ c r, spriteCovers s x y n c r ∧ Framebuffer.get s.fb c r = true) → t.getV 0xF#4 = 0#8) ∧
        (∀ k, k ≠ 0xF#4 → t.getV k = s.getV k) ∧ t.pc = s.pc + 2#16 ∧
        t = { s with v := t.v, fb := t.fb, pc := t.pc }

/-- Drawing the same sprite twice restores the display; the second draw collides iff a covered pixel was off before. R167, and R169's first sentence (derived by the spec; the source's property E7). R169's second sentence, a collision
whenever the sprite has a set bit, does not follow from R167: over pixels that were all on, the first draw turns them
off and the second turns none off (log 15). With x or y = 0xF the first draw overwrites a coordinate. -/
def Obligations.DrawTwiceRestoresDisplay : Prop :=
  ∀ (x y n : Nibble) (s : State), x ≠ 0xF#4 → y ≠ 0xF#4 → (n = 0#4 ∨ s.i.toNat + n.toNat - 1 ≤ 0xFFF) →
    ∃ t u, exec (.drw x y n) s = .next t ∧ exec (.drw x y n) t = .next u ∧ u.fb = s.fb ∧
      ((∃ c r, spriteCovers s x y n c r ∧ Framebuffer.get s.fb c r = false) → u.getV 0xF#4 = 1#8) ∧
      ((∀ c r, spriteCovers s x y n c r → Framebuffer.get s.fb c r = true) → u.getV 0xF#4 = 0#8)

/-- Dxyn, Fx33, Fx55 and Fx65 whose last address exceeds 0xFFF take MEM_OOB at the first address above it. R75, R76, R206 (D13). Of the state after the fault it claims what R201
specifies and nothing of log 5. -/
def Obligations.DataAccessOutOfRangeFaults : Prop :=
  ∀ (x y n : Nibble) (s : State),
    (n ≠ 0#4 → s.i.toNat + n.toNat - 1 > 0xFFF → execFaults (.drw x y n) s .memOob (max s.i.toNat 0x1000)) ∧
      (s.i.toNat + 2 > 0xFFF → execFaults (.ldBVx x) s .memOob (max s.i.toNat 0x1000)) ∧
      (s.i.toNat + x.toNat > 0xFFF → execFaults (.ldMemVx x) s .memOob (max s.i.toNat 0x1000) ∧
        execFaults (.ldVxMem x) s .memOob (max s.i.toNat 0x1000))

/-- Ex9E and ExA1 skip on the state of key V[x]; a key number above 15 takes KEY_INDEX. R180, R181; the fault clause is D8's. Of the state after the fault it claims what R201
specifies and nothing of log 5. -/
def Obligations.KeySkipResult : Prop :=
  (∀ mode, decodesBy mode 0xF0FF#16 0xE09E#16 (fun op => .skp (xOf op)) ∧
      decodesBy mode 0xF0FF#16 0xE0A1#16 (fun op => .sknp (xOf op))) ∧
    (∀ (x : Nibble) (s : State), (s.getV x).toNat ≤ 15 →
      (∃ t, exec (.skp x) s = .next t ∧ skips s t (s.isPressed (s.getV x).toNat = true)) ∧
        ∃ t, exec (.sknp x) s = .next t ∧ skips s t (s.isPressed (s.getV x).toNat = false)) ∧
    ∀ (x : Nibble) (s : State), (s.getV x).toNat > 15 →
      execFaults (.skp x) s .keyIndex (s.getV x).toNat ∧ execFaults (.sknp x) s .keyIndex (s.getV x).toNat

/-- Fx07 reads DT before the tick; Fx15 and Fx18 write DT and ST, and the same cycle's tick follows. R182, R184, R185. -/
def Obligations.TimerMoveResult : Prop :=
  (∀ mode, decodesBy mode 0xF0FF#16 0xF007#16 (fun op => .ldVxDt (xOf op)) ∧
      decodesBy mode 0xF0FF#16 0xF015#16 (fun op => .ldDtVx (xOf op)) ∧
      decodesBy mode 0xF0FF#16 0xF018#16 (fun op => .ldStVx (xOf op))) ∧
    (∀ (x : Nibble) (s : State),
      (∃ t, exec (.ldVxDt x) s = .next t ∧ writesReg s t x s.dt) ∧
        (∃ t, exec (.ldDtVx x) s = .next t ∧ t.dt = s.getV x ∧ t.pc = s.pc + 2#16 ∧
          t = { s with dt := t.dt, pc := t.pc }) ∧
        ∃ t, exec (.ldStVx x) s = .next t ∧ t.st = s.getV x ∧ t.pc = s.pc + 2#16 ∧
          t = { s with st := t.st, pc := t.pc }) ∧
    ∀ (x : Nibble) (s : State), s.running → s.fetchable →
      (s.decoded = some (.ldVxDt x) → ∃ t, step s = .next t ∧ t.getV x = s.dt ∧ t.dt.toNat = s.dt.toNat - 1) ∧
        (s.decoded = some (.ldDtVx x) → ∃ t, step s = .next t ∧ t.dt.toNat = (s.getV x).toNat - 1) ∧
        (s.decoded = some (.ldStVx x) → ∃ t, step s = .next t ∧ t.st.toNat = (s.getV x).toNat - 1)

/-- Fx0A stores the lowest pressed key and advances 2, or leaves pc and registers and sets AWAIT. R183. -/
def Obligations.KeyWaitResult : Prop :=
  (∀ mode, decodesBy mode 0xF0FF#16 0xF00A#16 (fun op => .ldVxK (xOf op))) ∧
    (∀ (x : Nibble) (s : State) (k : Nat), k < 16 → s.isPressed k = true → (∀ j < k, s.isPressed j = false) →
      ∃ t, exec (.ldVxK x) s = .next t ∧ writesReg s t x (BitVec.ofNat 8 k)) ∧
    (∀ (x : Nibble) (s : State), (∀ k < 16, s.isPressed k = false) → exec (.ldVxK x) s = .next s) ∧
    ∀ (x : Nibble) (s : State), s.running → s.fetchable → s.decoded = some (.ldVxK x) →
      (∀ k < 16, s.isPressed k = false) →
      ∃ t, step s = .next t ∧ t.pc = s.pc ∧ t.v = s.v ∧ t.awaitKey = true ∧ t.dt.toNat = s.dt.toNat - 1 ∧
        t.st.toNat = s.st.toNat - 1

/-- Fx1E adds V[x] to I without a flag; above 0xFFFF it takes INDEX_OVERFLOW or wraps, by the parameter. R186, R208; the overflow clauses are D3's under both settings. Of the state after the fault it claims what R201
specifies and nothing of log 5. -/
def Obligations.AddToIndexResult : Prop :=
  (∀ mode, decodesBy mode 0xF0FF#16 0xF01E#16 (fun op => .addIVx (xOf op))) ∧
    ∀ (x : Nibble) (s : State),
      (s.i.toNat + (s.getV x).toNat ≤ 0xFFFF → ∃ t, exec (.addIVx x) s = .next t ∧
        t.i.toNat = s.i.toNat + (s.getV x).toNat ∧ t.pc = s.pc + 2#16 ∧ t = { s with i := t.i, pc := t.pc }) ∧
      (s.i.toNat + (s.getV x).toNat > 0xFFFF → s.cfg.iOverflow = .wrap → ∃ t, exec (.addIVx x) s = .next t ∧
        t.i.toNat = (s.i.toNat + (s.getV x).toNat) % 0x10000 ∧ t.pc = s.pc + 2#16 ∧
        t = { s with i := t.i, pc := t.pc }) ∧
      (s.i.toNat + (s.getV x).toNat > 0xFFFF → s.cfg.iOverflow = .fault →
        execFaults (.addIVx x) s .indexOverflow (s.i.toNat + (s.getV x).toNat))

/-- Fx29 sets I to 5 times the digit, masked or not by the parameter. R187; the treatment of V[x] > 15 is D9's under both settings. -/
def Obligations.FontAddressResult : Prop :=
  (∀ mode, decodesBy mode 0xF0FF#16 0xF029#16 (fun op => .ldFVx (xOf op))) ∧
    ∀ (x : Nibble) (s : State), ∃ t, exec (.ldFVx x) s = .next t ∧
      (s.cfg.fontDigitMask = .none → t.i.toNat = 5 * (s.getV x).toNat) ∧
      (s.cfg.fontDigitMask = .lowNibble → t.i.toNat = 5 * ((s.getV x).toNat % 16)) ∧ t.pc = s.pc + 2#16 ∧
      t = { s with i := t.i, pc := t.pc }

/-- Fx33 stores the three decimal digits of V[x] at I, I + 1 and I + 2, and nothing else. R188. `Memory.wf` is the invariant StepKeepsStateInvariant keeps. Of the state after the fault it claims what R201
specifies and nothing of log 5. -/
def Obligations.BcdStoreResult : Prop :=
  (∀ mode, decodesBy mode 0xF0FF#16 0xF033#16 (fun op => .ldBVx (xOf op))) ∧
    (∀ (x : Nibble) (s : State), s.i.toNat + 2 ≤ 0xFFF → ∃ t, exec (.ldBVx x) s = .next t ∧
      (Memory.wf s.mem = true →
        (Memory.read t.mem s.i.toNat).toNat = (s.getV x).toNat / 100 ∧
          (Memory.read t.mem (s.i.toNat + 1)).toNat = (s.getV x).toNat / 10 % 10 ∧
          (Memory.read t.mem (s.i.toNat + 2)).toNat = (s.getV x).toNat % 10) ∧
      (∀ a, a < s.i.toNat ∨ s.i.toNat + 2 < a → Memory.read t.mem a = Memory.read s.mem a) ∧
      t.pc = s.pc + 2#16 ∧ t = { s with mem := t.mem, pc := t.pc }) ∧
    ∀ (x : Nibble) (s : State), s.i.toNat + 2 > 0xFFF → execFaults (.ldBVx x) s .memOob (max s.i.toNat 0x1000)

/-- Fx55 stores V0..Vx at I..I+x, sets I to I + x + 1, and changes nothing else. R189. Of the state after the fault it claims what R201
specifies and nothing of log 5. -/
def Obligations.RegisterDumpResult : Prop :=
  (∀ mode, decodesBy mode 0xF0FF#16 0xF055#16 (fun op => .ldMemVx (xOf op))) ∧
    (∀ (x : Nibble) (s : State), s.i.toNat + x.toNat ≤ 0xFFF → ∃ t, exec (.ldMemVx x) s = .next t ∧
      (Memory.wf s.mem = true → ∀ k : Nibble, k.toNat ≤ x.toNat → Memory.read t.mem (s.i.toNat + k.toNat) = s.getV k) ∧
      (∀ a, a < s.i.toNat ∨ s.i.toNat + x.toNat < a → Memory.read t.mem a = Memory.read s.mem a) ∧
      t.i.toNat = s.i.toNat + x.toNat + 1 ∧ t.pc = s.pc + 2#16 ∧ t = { s with mem := t.mem, i := t.i, pc := t.pc }) ∧
    ∀ (x : Nibble) (s : State), s.i.toNat + x.toNat > 0xFFF → execFaults (.ldMemVx x) s .memOob (max s.i.toNat 0x1000)

/-- Fx65 loads V0..Vx from I..I+x, sets I to I + x + 1, and changes nothing else. R190. Of the state after the fault it claims what R201
specifies and nothing of log 5. -/
def Obligations.RegisterLoadResult : Prop :=
  (∀ mode, decodesBy mode 0xF0FF#16 0xF065#16 (fun op => .ldVxMem (xOf op))) ∧
    (∀ (x : Nibble) (s : State), s.i.toNat + x.toNat ≤ 0xFFF → ∃ t, exec (.ldVxMem x) s = .next t ∧
      (∀ k : Nibble, k.toNat ≤ x.toNat → t.getV k = Memory.read s.mem (s.i.toNat + k.toNat)) ∧
      (∀ k : Nibble, x.toNat < k.toNat → t.getV k = s.getV k) ∧
      t.i.toNat = s.i.toNat + x.toNat + 1 ∧ t.pc = s.pc + 2#16 ∧ t = { s with v := t.v, i := t.i, pc := t.pc }) ∧
    ∀ (x : Nibble) (s : State), s.i.toNat + x.toNat > 0xFFF → execFaults (.ldVxMem x) s .memOob (max s.i.toNat 0x1000)

/-- Fx55, then Annn back to the same address, then Fx65 restores V0..Vx. R191 (derived by the spec; the source's property E5, read by C12). -/
def Obligations.DumpThenLoadRestoresRegisters : Prop :=
  ∀ (x : Nibble) (s : State), Memory.wf s.mem = true → s.i.toNat + x.toNat ≤ 0xFFF →
    ∃ t u w, exec (.ldMemVx x) s = .next t ∧ exec (.ldINnn (s.i.setWidth 12)) t = .next u ∧
      exec (.ldVxMem x) u = .next w ∧ (∀ k : Nibble, k.toNat ≤ x.toNat → w.getV k = s.getV k) ∧ w.mem = t.mem ∧
      t.i.toNat = s.i.toNat + x.toNat + 1 ∧ w.i = t.i

/-- The state after reset holds the values of R60, and the parameters R14's defaults (the model's choice, log 1). R60, R231. The values of the status elements, of KEY and FB, and the FONT bytes are the spec's decisions D16 to D18 and
general knowledge (log 7, log 16). The five parameter clauses are R14's defaults (D3, D5, D6, D7, D9); that the reset
state holds them is the model's choice (log 1). -/
def Obligations.ResetValues : Prop :=
  (∀ x, State.reset.getV x = 0#8) ∧ State.reset.i = 0x200#16 ∧ State.reset.pc = 0x200#16 ∧ State.reset.sp.val = 0 ∧
    (∀ k, State.reset.stackAt k = 0#16) ∧ State.reset.dt = 0#8 ∧ State.reset.st = 0#8 ∧ State.reset.opc = 0#16 ∧
    (∀ (a : Nat) (h : a < 80), Memory.read State.reset.mem a = State.reset.cfg.font[a]) ∧
    (∀ a, 80 ≤ a → Memory.read State.reset.mem a = 0#8) ∧
    State.reset.halted = false ∧ State.reset.fault = none ∧ State.reset.events = [] ∧ State.reset.awaitKey = false ∧
    (∀ k, State.reset.isPressed k = false) ∧ (∀ c r, Framebuffer.get State.reset.fb c r = false) ∧
    State.reset.cfg.decodeMode = .strict ∧ State.reset.cfg.oddPc = .fetch ∧ State.reset.cfg.vfOrder = .flagLast ∧
    State.reset.cfg.iOverflow = .fault ∧ State.reset.cfg.fontDigitMask = .none

/-- initialize() gives every core element its reset value and leaves KEY, FB and the parameters. R230 (D18), for every value of the parameter FONT. That the parameters stay is the model's (log 1). -/
def Obligations.InitializeResetsCoreOnly : Prop :=
  ∀ s : State,
    (∀ x, s.initializeCore.getV x = 0#8) ∧ s.initializeCore.i = 0x200#16 ∧ s.initializeCore.pc = 0x200#16 ∧
      s.initializeCore.sp.val = 0 ∧ (∀ k, s.initializeCore.stackAt k = 0#16) ∧ s.initializeCore.dt = 0#8 ∧
      s.initializeCore.st = 0#8 ∧ s.initializeCore.opc = 0#16 ∧
      (∀ (a : Nat) (h : a < 80), Memory.read s.initializeCore.mem a = s.cfg.font[a]) ∧
      (∀ a, 80 ≤ a → Memory.read s.initializeCore.mem a = 0#8) ∧ Memory.wf s.initializeCore.mem = true ∧
      s.initializeCore.halted = false ∧ s.initializeCore.fault = none ∧ s.initializeCore.events = [] ∧
      s.initializeCore.awaitKey = false ∧ s.initializeCore.key = s.key ∧ s.initializeCore.fb = s.fb ∧
      s.initializeCore.cfg = s.cfg

/-- load_program writes the bytes from 0x200 and sets pc, faults past 3584 bytes, and is refused while halted. R233, R209 (D19). Of the state after the fault it claims what R201
specifies and nothing of log 5. -/
def Obligations.LoadProgramResult : Prop :=
  ∀ (bytes : List Byte) (s : State),
    (s.running → bytes.length ≤ 3584 → ∃ t, s.loadProgram bytes = .next t ∧
      (Memory.wf s.mem = true → ∀ (k : Nat) (h : k < bytes.length), Memory.read t.mem (0x200 + k) = bytes[k]) ∧
      (∀ a, a < 0x200 ∨ 0x200 + bytes.length ≤ a → Memory.read t.mem a = Memory.read s.mem a) ∧
      t.pc = 0x200#16 ∧ t = { s with mem := t.mem, pc := t.pc }) ∧
    (s.running → bytes.length > 3584 → ∃ t, s.loadProgram bytes = .next t ∧
      faultTaken s t .loadOverflow none 0x1000) ∧
    (s.halted = true → s.loadProgram bytes = .refused .loadWhileHalted)

/-- set_key_state writes one key and nothing else, is refused above 15; present() changes nothing. R217, R218 (D25, D31). -/
def Obligations.KeyAndPresentMoves : Prop :=
  ∀ (k : Nat) (p : Bool) (s : State),
    (k ≤ 15 → ∃ t, s.setKeyState k p = .next t ∧ t.isPressed k = p ∧ (∀ j, j ≠ k → t.isPressed j = s.isPressed j) ∧
      t = { s with key := t.key }) ∧
    (k > 15 → s.setKeyState k p = .refused .keyOutOfRange) ∧ s.present = .next s

/-- A word stored by Fx55 is what a later fetch at its address reads, and the storing instruction is not affected. R46; R84 and R241 (derived by the spec). -/
def Obligations.StoredWordIsFetchedNext : Prop :=
  ∀ (x : Nibble) (s : State), Memory.wf s.mem = true → 1 ≤ x.toNat → s.i.toNat + x.toNat ≤ 0xFFF →
    ∃ t, exec (.ldMemVx x) s = .next t ∧ t.opc = s.opc ∧
      ∀ u : State, u.mem = t.mem → u.pc = s.i → u.fetchWord = wordOfBytes (s.getV 0#4) (s.getV 1#4)

/-- In the model a fatal fault of an instruction or of load_program leaves the timers, the keys and the parameters. The model's own: log 5 reads R201's 'the timers do not count down' as unchanged, where D13 and U9 leave DT and ST any
value, and keeps the keys by R51; log 1 carries R14's parameters in the state. A fault of the fetch is in
FatalFaultRecordsItsCycle. -/
def Obligations.FaultsKeepTimersAndKeys : Prop :=
  ∀ s t : State, s.running → t.halted = true →
    (∀ i, exec i s = .next t → faultKeeps s t) ∧ ∀ bytes, s.loadProgram bytes = .next t → faultKeeps s t
end

