-- ==== Sys2Proof/Laws/Decode.lean ====
section
/-! SUPPORT. The fields of an encoded word, and what a mask and match say of the fields of any word. -/

namespace Sys2Proof

/-! ### Fields of encoded words -/

@[simp] theorem fieldFamily_encodeNnn (f : Nibble) (nnn : Addr12) : fieldFamily (encodeNnn f nnn) = f := by
  apply BitVec.eq_of_toNat_eq
  have := nnn.isLt; have := f.isLt
  simp only [fieldFamily, encodeNnn, BitVec.extractLsb'_toNat, BitVec.toNat_append, Nat.shiftRight_eq_div_pow]
  rw [← Nat.shiftLeft_add_eq_or_of_lt nnn.isLt, Nat.shiftLeft_eq]
  omega

@[simp] theorem fieldNnn_encodeNnn (f : Nibble) (nnn : Addr12) : fieldNnn (encodeNnn f nnn) = nnn := by
  apply BitVec.eq_of_toNat_eq
  have := nnn.isLt; have := f.isLt
  simp only [fieldNnn, encodeNnn, BitVec.extractLsb'_toNat, BitVec.toNat_append, Nat.shiftRight_eq_div_pow]
  rw [← Nat.shiftLeft_add_eq_or_of_lt nnn.isLt, Nat.shiftLeft_eq]
  omega

theorem encodeXnn_toNat (f x : Nibble) (nn : Byte) :
    (encodeXnn f x nn).toNat = 4096 * f.toNat + 256 * x.toNat + nn.toNat := by
  simp only [encodeXnn, BitVec.toNat_append]
  rw [← Nat.shiftLeft_add_eq_or_of_lt nn.isLt, ← Nat.shiftLeft_add_eq_or_of_lt x.isLt, Nat.shiftLeft_eq,
    Nat.shiftLeft_eq]
  omega

theorem encodeXyn_eq (f x y n : Nibble) : encodeXyn f x y n = encodeXnn f x (y ++ n : Byte) := rfl

theorem encodeXyn_toNat (f x y n : Nibble) :
    (encodeXyn f x y n).toNat = 4096 * f.toNat + 256 * x.toNat + 16 * y.toNat + n.toNat := by
  rw [encodeXyn_eq, encodeXnn_toNat]
  have : (y ++ n : Byte).toNat = 16 * y.toNat + n.toNat := by
    rw [BitVec.toNat_append, ← Nat.shiftLeft_add_eq_or_of_lt n.isLt, Nat.shiftLeft_eq]; omega
  omega

theorem field_toNat (op : Word) (lo len : Nat) : (op.extractLsb' lo len).toNat = op.toNat / 2 ^ lo % 2 ^ len := by
  rw [BitVec.extractLsb'_toNat, Nat.shiftRight_eq_div_pow]

@[simp] theorem fieldFamily_encodeXnn (f x : Nibble) (nn : Byte) : fieldFamily (encodeXnn f x nn) = f := by
  apply BitVec.eq_of_toNat_eq
  have := f.isLt; have := x.isLt; have := nn.isLt
  rw [fieldFamily, field_toNat, encodeXnn_toNat]; omega

@[simp] theorem fieldX_encodeXnn (f x : Nibble) (nn : Byte) : fieldX (encodeXnn f x nn) = x := by
  apply BitVec.eq_of_toNat_eq
  have := f.isLt; have := x.isLt; have := nn.isLt
  rw [fieldX, field_toNat, encodeXnn_toNat]; omega

@[simp] theorem fieldNn_encodeXnn (f x : Nibble) (nn : Byte) : fieldNn (encodeXnn f x nn) = nn := by
  apply BitVec.eq_of_toNat_eq
  have := f.isLt; have := x.isLt; have := nn.isLt
  rw [fieldNn, field_toNat, encodeXnn_toNat]; omega

@[simp] theorem fieldFamily_encodeXyn (f x y n : Nibble) : fieldFamily (encodeXyn f x y n) = f := by
  rw [encodeXyn_eq, fieldFamily_encodeXnn]

@[simp] theorem fieldX_encodeXyn (f x y n : Nibble) : fieldX (encodeXyn f x y n) = x := by
  rw [encodeXyn_eq, fieldX_encodeXnn]

@[simp] theorem fieldY_encodeXyn (f x y n : Nibble) : fieldY (encodeXyn f x y n) = y := by
  apply BitVec.eq_of_toNat_eq
  have := f.isLt; have := x.isLt; have := y.isLt; have := n.isLt
  rw [fieldY, field_toNat, encodeXyn_toNat]; omega

@[simp] theorem fieldN_encodeXyn (f x y n : Nibble) : fieldN (encodeXyn f x y n) = n := by
  apply BitVec.eq_of_toNat_eq
  have := f.isLt; have := x.isLt; have := y.isLt; have := n.isLt
  rw [fieldN, field_toNat, encodeXyn_toNat]; omega

/-! ### Any word is the encoding of its fields -/

theorem encodeNnn_fields (op : Word) : encodeNnn (fieldFamily op) (fieldNnn op) = op := by
  apply BitVec.eq_of_toNat_eq
  have := op.isLt
  simp only [encodeNnn, BitVec.toNat_append]
  rw [← Nat.shiftLeft_add_eq_or_of_lt (fieldNnn op).isLt, Nat.shiftLeft_eq, fieldFamily, fieldNnn, field_toNat,
    field_toNat]
  omega

theorem encodeXnn_fields (op : Word) : encodeXnn (fieldFamily op) (fieldX op) (fieldNn op) = op := by
  apply BitVec.eq_of_toNat_eq
  have := op.isLt
  rw [encodeXnn_toNat, fieldFamily, fieldX, fieldNn, field_toNat, field_toNat, field_toNat]
  omega

theorem encodeXyn_fields (op : Word) : encodeXyn (fieldFamily op) (fieldX op) (fieldY op) (fieldN op) = op := by
  apply BitVec.eq_of_toNat_eq
  have := op.isLt
  rw [encodeXyn_toNat, fieldFamily, fieldX, fieldY, fieldN, field_toNat, field_toNat, field_toNat, field_toNat]
  omega

/-! ### Masks -/

theorem encodeNnn_and (f f' : Nibble) (a a' : Addr12) :
    encodeNnn f a &&& encodeNnn f' a' = encodeNnn (f &&& f') (a &&& a') := BitVec.and_append

theorem byteOfNibbles_and (a a' b b' : Nibble) :
    ((a ++ b : Byte) &&& (a' ++ b' : Byte)) = ((a &&& a') ++ (b &&& b') : Byte) := BitVec.and_append

theorem encodeXnn_and (f f' x x' : Nibble) (b b' : Byte) :
    encodeXnn f x b &&& encodeXnn f' x' b' = encodeXnn (f &&& f') (x &&& x') (b &&& b') := by
  refine BitVec.and_append.trans ?_
  rw [byteOfNibbles_and]
  rfl

theorem encodeXyn_and (f f' x x' y y' n n' : Nibble) :
    encodeXyn f x y n &&& encodeXyn f' x' y' n' = encodeXyn (f &&& f') (x &&& x') (y &&& y') (n &&& n') := by
  simp only [encodeXyn_eq, encodeXnn_and, byteOfNibbles_and]

theorem nibble_and_ones (a : Nibble) : a &&& 0xF#4 = a := BitVec.and_allOnes

theorem byte_and_ones (a : Byte) : a &&& 0xFF#8 = a := BitVec.and_allOnes

/-- A word's bits under the masks of R105: the family, the family and `n`, or the family and `nn`. -/
theorem and_familyMask (op : Word) : op &&& 0xF000#16 = encodeXnn (fieldFamily op) 0#4 0#8 := by
  conv_lhs => rw [← encodeXnn_fields op, show 0xF000#16 = encodeXnn 0xF#4 0#4 0#8 from rfl, encodeXnn_and]
  simp only [nibble_and_ones, BitVec.and_zero]

theorem and_lowNibbleMask (op : Word) : op &&& 0xF00F#16 = encodeXyn (fieldFamily op) 0#4 0#4 (fieldN op) := by
  conv_lhs => rw [← encodeXyn_fields op, show 0xF00F#16 = encodeXyn 0xF#4 0#4 0#4 0xF#4 from rfl, encodeXyn_and]
  simp only [nibble_and_ones, BitVec.and_zero]

theorem and_lowByteMask (op : Word) : op &&& 0xF0FF#16 = encodeXnn (fieldFamily op) 0#4 (fieldNn op) := by
  conv_lhs => rw [← encodeXnn_fields op, show 0xF0FF#16 = encodeXnn 0xF#4 0#4 0xFF#8 from rfl, encodeXnn_and]
  simp only [nibble_and_ones, byte_and_ones, BitVec.and_zero]

/-! ### Bytes -/

@[simp] theorem wordOfBytes_bytes (op : Word) : wordOfBytes (highByte op) (lowByte op) = op := by
  apply BitVec.eq_of_toNat_eq
  have := op.isLt
  simp only [wordOfBytes, BitVec.toNat_append]
  rw [← Nat.shiftLeft_add_eq_or_of_lt (lowByte op).isLt, Nat.shiftLeft_eq, highByte, lowByte, field_toNat,
    field_toNat]
  omega

end Sys2Proof
end

