-- ==== Sys2Proof/Laws/Display.lean ====
section
/-! SUPPORT. What the compositor does to each pixel, and when it reports a collision (R167). -/

namespace Sys2Proof.Machine

theorem Framebuffer.get_toggle (fb : Framebuffer) (c c' : Fin 64) (r r' : Fin 32) :
    Framebuffer.get (Framebuffer.toggle fb c r) c' r' =
      if c' = c ∧ r' = r then !Framebuffer.get fb c r else Framebuffer.get fb c' r' := by
  simp only [Framebuffer.get, Framebuffer.toggle, Fin.getElem_fin, Vector.getElem_set]
  by_cases hc : c = c'
  · subst hc
    by_cases hr : r = r'
    · subst hr; simp
    · have h1 : (r : Nat) ≠ r' := fun e => hr (Fin.ext e)
      simp [h1, Ne.symm hr]
  · have h1 : (c : Nat) ≠ c' := fun e => hc (Fin.ext e)
    simp [h1, Ne.symm hc]

@[simp] theorem Framebuffer.get_clear (c : Fin 64) (r : Fin 32) :
    Framebuffer.get Framebuffer.clear c r = false := by
  simp [Framebuffer.get, Framebuffer.clear]

/-- Two framebuffers with the same pixels are the same. -/
theorem Framebuffer.ext_get {fb fb' : Framebuffer}
    (h : ∀ c r, Framebuffer.get fb c r = Framebuffer.get fb' c r) : fb = fb' := by
  refine Vector.ext (fun c hc => Vector.ext (fun r hr => ?_))
  exact h ⟨c, hc⟩ ⟨r, hr⟩

/-- After any sequence of pixel turns a pixel has been toggled once for each of its occurrences. -/
theorem get_foldl_xorPixel (c : Fin 64) (r : Fin 32) : ∀ (ps : List (Fin 64 × Fin 32)) (acc : Framebuffer × Bool),
    Framebuffer.get (ps.foldl xorPixel acc).1 c r =
      (Framebuffer.get acc.1 c r ^^ decide (ps.count (c, r) % 2 = 1))
  | [], acc => by simp
  | p :: ps, acc => by
    rw [List.foldl_cons, get_foldl_xorPixel c r ps]
    simp only [xorPixel, Framebuffer.get_toggle, List.count_cons, beq_iff_eq]
    by_cases h : c = p.1 ∧ r = p.2
    · obtain ⟨h1, h2⟩ := h
      subst h1 h2
      rcases Nat.mod_two_eq_zero_or_one (ps.count (p.1, p.2)) with h0 | h0 <;> simp [h0, Nat.add_mod]
    · have hp : p ≠ (c, r) := fun e => h (by simp [e])
      simp [h, hp]

/-- A collision, once noted, stays noted. -/
theorem snd_foldl_xorPixel_true : ∀ (ps : List (Fin 64 × Fin 32)) (acc : Framebuffer × Bool), acc.2 = true →
    (ps.foldl xorPixel acc).2 = true
  | [], _, h => h
  | p :: ps, acc, h => snd_foldl_xorPixel_true ps _ (by simp [xorPixel, h])

/-- Over distinct pixels a collision is a pixel that was on before. -/
theorem snd_foldl_xorPixel : ∀ (ps : List (Fin 64 × Fin 32)) (acc : Framebuffer × Bool), ps.Nodup →
    (ps.foldl xorPixel acc).2 = (acc.2 || ps.any (fun p => Framebuffer.get acc.1 p.1 p.2))
  | [], acc, _ => by simp
  | p :: ps, acc, hn => by
    obtain ⟨hp, hn'⟩ := List.nodup_cons.mp hn
    rw [List.foldl_cons, snd_foldl_xorPixel ps _ hn', List.any_cons, ← Bool.or_assoc]
    congr 1
    rw [Bool.eq_iff_iff, List.any_eq_true, List.any_eq_true]
    refine exists_congr (fun q => and_congr_right (fun hq => ?_))
    have hqp : ¬(q.1 = p.1 ∧ q.2 = p.2) := fun e => hp (by rwa [← Prod.ext e.1 e.2])
    simp only [xorPixel, Framebuffer.get_toggle, if_neg hqp]

theorem mem_rowPixels {cx row : Nat} {bits : Byte} {p : Fin 64 × Fin 32} (h : p ∈ rowPixels cx row bits) :
    p.2 = Fin.ofNat 32 row := by
  simp only [rowPixels, List.mem_map] at h
  obtain ⟨b, _, rfl⟩ := h
  rfl

theorem rowPixels_nodup (cx row : Nat) (bits : Byte) : (rowPixels cx row bits).Nodup := by
  unfold rowPixels
  refine List.Nodup.map_on ?_ (List.Nodup.filter _ (by decide))
  intro a ha b hb h
  have ha' : a ≤ 7 := by
    have := List.mem_of_mem_filter ha
    simp only [List.mem_cons, List.not_mem_nil, or_false] at this
    omega
  have hb' : b ≤ 7 := by
    have := List.mem_of_mem_filter hb
    simp only [List.mem_cons, List.not_mem_nil, or_false] at this
    omega
  have h1 := congrArg (fun p : Fin 64 × Fin 32 => p.1.val) h
  simp only [Fin.ofNat] at h1
  omega

theorem mem_spritePixels {cx : Nat} {p : Fin 64 × Fin 32} : ∀ {cy : Nat} {sprite : List Byte},
    p ∈ spritePixels cx cy sprite → ∃ r < sprite.length, p.2 = Fin.ofNat 32 (cy + r)
  | _, [], h => absurd h (by simp [spritePixels])
  | cy, bits :: rest, h => by
    rcases List.mem_append.mp h with h | h
    · exact ⟨0, by simp, mem_rowPixels h⟩
    · obtain ⟨r, hr, e⟩ := mem_spritePixels h
      exact ⟨r + 1, by simpa using hr, by rw [e]; congr 1; omega⟩

/-- A sprite of at most 32 rows covers each pixel at most once (R167). -/
theorem spritePixels_nodup (cx : Nat) : ∀ (cy : Nat) (sprite : List Byte), sprite.length ≤ 32 →
    (spritePixels cx cy sprite).Nodup
  | _, [], _ => by simp [spritePixels]
  | cy, bits :: rest, h => by
    simp only [List.length_cons] at h
    refine List.Nodup.append (rowPixels_nodup _ _ _) (spritePixels_nodup cx (cy + 1) rest (by omega)) ?_
    intro p h1 h2
    have e1 := mem_rowPixels h1
    obtain ⟨r, hr, e2⟩ := mem_spritePixels h2
    have := congrArg Fin.val (e1.symm.trans e2)
    simp only [Fin.ofNat] at this
    omega

/-- What one draw does to each pixel (R167). -/
theorem Framebuffer.get_draw (fb : Framebuffer) (cx cy : Nat) (sprite : List Byte) (h : sprite.length ≤ 32)
    (c : Fin 64) (r : Fin 32) :
    Framebuffer.get (Framebuffer.draw fb cx cy sprite).1 c r =
      (Framebuffer.get fb c r ^^ decide ((c, r) ∈ spritePixels cx cy sprite)) := by
  unfold Framebuffer.draw
  rw [get_foldl_xorPixel]
  have hn := spritePixels_nodup cx cy sprite h
  congr 1
  by_cases hm : (c, r) ∈ spritePixels cx cy sprite
  · simp [hm, List.count_eq_one_of_mem hn hm]
  · simp [hm, List.count_eq_zero_of_not_mem hm]

/-- A draw reports a collision exactly where a pixel it toggles was on (R167). -/
theorem Framebuffer.draw_collision (fb : Framebuffer) (cx cy : Nat) (sprite : List Byte) (h : sprite.length ≤ 32) :
    (Framebuffer.draw fb cx cy sprite).2 =
      (spritePixels cx cy sprite).any (fun p => Framebuffer.get fb p.1 p.2) := by
  unfold Framebuffer.draw
  rw [snd_foldl_xorPixel _ _ (spritePixels_nodup cx cy sprite h), Bool.false_or]

@[simp] theorem Framebuffer.draw_nil (fb : Framebuffer) (cx cy : Nat) :
    Framebuffer.draw fb cx cy [] = (fb, false) := rfl

end Sys2Proof.Machine
end

