-- ==== Sys2Proof/Laws/Memory.lean ====
section
/-! SUPPORT. The laws of memory: every operation keeps the canonical form, a read gives the last write, and equal reads
make equal memories. -/

namespace Sys2Proof.Machine

/-! ### The canonical form -/

theorem Memory.wfFrom_cons (lo k : Nat) (b : Byte) (m : Memory) :
    Memory.wfFrom lo ((k, b) :: m) = true ↔
      lo ≤ k ∧ k < 0x1000 ∧ b ≠ resetByte k ∧ Memory.wfFrom (k + 1) m = true := by
  simp [Memory.wfFrom, and_assoc]

theorem Memory.wfFrom_mono {lo lo' : Nat} (h : lo' ≤ lo) :
    ∀ {m : Memory}, Memory.wfFrom lo m = true → Memory.wfFrom lo' m = true
  | [], _ => rfl
  | (k, b) :: m, hm => by
    rw [Memory.wfFrom_cons] at hm ⊢
    exact ⟨by omega, hm.2⟩

/-- Below its bound a canonical list lists nothing. -/
theorem Memory.read_below : ∀ {m : Memory} {lo a : Nat},
    Memory.wfFrom lo m = true → a < lo → Memory.read m a = resetByte a
  | [], _, _, _, _ => rfl
  | (k, b) :: m, lo, a, hm, ha => by
    rw [Memory.wfFrom_cons] at hm
    have hk : k ≠ a := by omega
    simp only [Memory.read, if_neg hk]
    exact Memory.read_below hm.2.2.2 (by omega)

/-- Above the address space a canonical list lists nothing. -/
theorem Memory.read_above : ∀ {m : Memory} {lo a : Nat},
    Memory.wfFrom lo m = true → 0x1000 ≤ a → Memory.read m a = resetByte a
  | [], _, _, _, _ => rfl
  | (k, b) :: m, lo, a, hm, ha => by
    rw [Memory.wfFrom_cons] at hm
    have hk : k ≠ a := by omega
    simp only [Memory.read, if_neg hk]
    exact Memory.read_above hm.2.2.2 ha

theorem Memory.insert_wfFrom : ∀ {m : Memory} {lo a : Nat} (b : Byte),
    Memory.wfFrom lo m = true → lo ≤ a → a < 0x1000 → Memory.wfFrom lo (Memory.insert m a b) = true
  | [], lo, a, b, _, hlo, ha => by
    unfold Memory.insert
    split
    · rfl
    · next h => exact (Memory.wfFrom_cons _ _ _ _).mpr ⟨hlo, ha, h, rfl⟩
  | (k, c) :: m, lo, a, b, hm, hlo, ha => by
    have hc := (Memory.wfFrom_cons _ _ _ _).mp hm
    unfold Memory.insert
    split
    · next hak =>
      split
      · exact hm
      · next h =>
        exact (Memory.wfFrom_cons _ _ _ _).mpr
          ⟨hlo, ha, h, (Memory.wfFrom_cons _ _ _ _).mpr ⟨by omega, hc.2⟩⟩
    · next hak =>
      split
      · next hek =>
        split
        · exact Memory.wfFrom_mono (by omega) hc.2.2.2
        · next h => exact (Memory.wfFrom_cons _ _ _ _).mpr ⟨hlo, ha, h, hek ▸ hc.2.2.2⟩
      · next hne =>
        exact (Memory.wfFrom_cons _ _ _ _).mpr
          ⟨hc.1, hc.2.1, hc.2.2.1, Memory.insert_wfFrom b hc.2.2.2 (by omega) ha⟩

theorem Memory.read_insert_same : ∀ {m : Memory} {lo : Nat} (a : Nat) (b : Byte),
    Memory.wfFrom lo m = true → Memory.read (Memory.insert m a b) a = b
  | [], _, a, b, _ => by
    unfold Memory.insert
    split
    · next h => exact h.symm
    · simp [Memory.read]
  | (k, c) :: m, lo, a, b, hm => by
    have hc := (Memory.wfFrom_cons _ _ _ _).mp hm
    unfold Memory.insert
    split
    · next hak =>
      split
      · next h =>
        have hk : k ≠ a := by omega
        simp only [Memory.read, if_neg hk]
        rw [Memory.read_below hc.2.2.2 (by omega), h]
      · simp [Memory.read]
    · split
      · next hek =>
        split
        · next h => rw [Memory.read_below hc.2.2.2 (by omega), h]
        · simp [Memory.read]
      · next hne =>
        have hk : k ≠ a := fun e => hne e.symm
        simp only [Memory.read, if_neg hk]
        exact Memory.read_insert_same a b hc.2.2.2

theorem Memory.read_insert_other {a c : Nat} (b : Byte) (hac : c ≠ a) :
    ∀ (m : Memory), Memory.read (Memory.insert m a b) c = Memory.read m c
  | [] => by
    unfold Memory.insert
    split
    · rfl
    · simp [Memory.read, Ne.symm hac]
  | (k, d) :: m => by
    have hne : a ≠ c := Ne.symm hac
    unfold Memory.insert
    split
    · split
      · rfl
      · simp [Memory.read, hne]
    · split
      · next hek =>
        subst hek
        split <;> simp [Memory.read, hne]
      · simp only [Memory.read, Memory.read_insert_other b hac m]

/-! ### One byte -/

theorem Memory.write_wf {m : Memory} (h : Memory.wf m = true) (a : Nat) (b : Byte) :
    Memory.wf (Memory.write m a b) = true := by
  unfold Memory.write
  split
  · next ha => exact Memory.insert_wfFrom b h (Nat.zero_le _) ha
  · exact h

theorem Memory.read_write_same {m : Memory} (h : Memory.wf m = true) {a : Nat} (ha : a < 0x1000) (b : Byte) :
    Memory.read (Memory.write m a b) a = b := by
  rw [Memory.write, if_pos ha]
  exact Memory.read_insert_same a b h

theorem Memory.read_write_other (m : Memory) {a c : Nat} (b : Byte) (hac : c ≠ a) :
    Memory.read (Memory.write m a b) c = Memory.read m c := by
  unfold Memory.write
  split
  · exact Memory.read_insert_other b hac m
  · rfl

/-! ### A block -/

theorem Memory.writeBlock_wf : ∀ {m : Memory} (a : Nat) (bs : List Byte),
    Memory.wf m = true → Memory.wf (Memory.writeBlock m a bs) = true
  | _, _, [], h => h
  | _, a, b :: bs, h => Memory.writeBlock_wf (a + 1) bs (Memory.write_wf h a b)

theorem Memory.read_writeBlock_below : ∀ (m : Memory) (bs : List Byte) {a c : Nat},
    c < a → Memory.read (Memory.writeBlock m a bs) c = Memory.read m c
  | _, [], _, _, _ => rfl
  | m, b :: bs, a, c, h => by
    simp only [Memory.writeBlock]
    rw [Memory.read_writeBlock_below _ bs (by omega), Memory.read_write_other m b (by omega)]

/-- Outside the bytes of the block nothing changes. -/
theorem Memory.read_writeBlock_outside : ∀ (m : Memory) (bs : List Byte) {a c : Nat},
    c < a ∨ a + bs.length ≤ c → Memory.read (Memory.writeBlock m a bs) c = Memory.read m c
  | _, [], _, _, _ => rfl
  | m, b :: bs, a, c, h => by
    simp only [Memory.writeBlock]
    simp only [List.length_cons] at h
    rw [Memory.read_writeBlock_outside _ bs (by omega), Memory.read_write_other m b (by omega)]

/-- Byte `k` of a block inside memory reads back. -/
theorem Memory.read_writeBlock_inside : ∀ {m : Memory} (bs : List Byte) {a k : Nat} (hk : k < bs.length),
    Memory.wf m = true → a + bs.length ≤ 0x1000 → Memory.read (Memory.writeBlock m a bs) (a + k) = bs[k]
  | _, [], _, _, hk, _, _ => absurd hk (by simp)
  | m, b :: bs, a, 0, _, hm, ha => by
    simp only [Memory.writeBlock, Nat.add_zero, List.getElem_cons_zero]
    simp only [List.length_cons] at ha
    rw [Memory.read_writeBlock_below _ bs (by omega), Memory.read_write_same hm (by omega)]
  | m, b :: bs, a, k + 1, hk, hm, ha => by
    simp only [Memory.writeBlock, List.getElem_cons_succ]
    simp only [List.length_cons] at ha hk
    rw [show a + (k + 1) = (a + 1) + k by omega]
    exact Memory.read_writeBlock_inside bs (by omega) (Memory.write_wf hm a b) (by omega)

@[simp] theorem Memory.readBlock_length (m : Memory) (a n : Nat) : (Memory.readBlock m a n).length = n := by
  simp [Memory.readBlock]

theorem Memory.readBlock_getElem (m : Memory) (a n k : Nat) (hk : k < (Memory.readBlock m a n).length) :
    (Memory.readBlock m a n)[k] = Memory.read m (a + k) := by
  simp [Memory.readBlock]

/-! ### A whole memory -/

theorem Memory.wfFrom_ofBytes (f : Nat → Byte) : ∀ (n lo : Nat), lo + n ≤ 0x1000 →
    Memory.wfFrom lo ((List.range' lo n).filterMap
      (fun a => if f a = resetByte a then none else some (a, f a))) = true
  | 0, _, _ => rfl
  | n + 1, lo, h => by
    rw [List.range'_succ, List.filterMap_cons]
    have ih := Memory.wfFrom_ofBytes f n (lo + 1) (by omega)
    split
    · exact Memory.wfFrom_mono (by omega) ih
    · next c hc =>
      split at hc
      · exact absurd hc (by simp)
      · next hne =>
        obtain rfl := Option.some.inj hc
        exact (Memory.wfFrom_cons _ _ _ _).mpr ⟨le_refl _, by omega, hne, ih⟩

theorem Memory.ofBytes_wf (f : Nat → Byte) : Memory.wf (Memory.ofBytes f) = true := by
  have h := Memory.wfFrom_ofBytes f 0x1000 0 (by omega)
  rwa [← List.range_eq_range'] at h

theorem Memory.read_filterMap (f : Nat → Byte) : ∀ (l : List Nat) (a : Nat), a ∈ l →
    Memory.read (l.filterMap (fun a => if f a = resetByte a then none else some (a, f a))) a = f a
  | [], _, h => absurd h (by simp)
  | k :: l, a, h => by
    rw [List.filterMap_cons]
    by_cases hk : k = a
    · subst hk
      by_cases hd : f k = resetByte k
      · simp only [hd, if_true]
        by_cases hl : k ∈ l
        · rw [← hd]; exact Memory.read_filterMap f l k hl
        · clear h
          induction l with
          | nil => rfl
          | cons j l ih =>
            have hj : j ≠ k := fun e => hl (by simp [e])
            have hl' : k ∉ l := fun e => hl (by simp [e])
            rw [List.filterMap_cons]
            split
            · exact ih hl'
            · next c hc =>
              split at hc
              · exact absurd hc (by simp)
              · obtain rfl := Option.some.inj hc
                simp only [Memory.read, if_neg hj]
                exact ih hl'
      · simp [hd, Memory.read]
    · have hl : a ∈ l := by
        rcases List.mem_cons.mp h with e | e
        · exact absurd e.symm hk
        · exact e
      by_cases hd : f k = resetByte k
      · simp only [hd, if_true]
        exact Memory.read_filterMap f l a hl
      · simp only [hd, if_false, Memory.read, if_neg hk]
        exact Memory.read_filterMap f l a hl

theorem Memory.read_ofBytes (f : Nat → Byte) {a : Nat} (ha : a < 0x1000) :
    Memory.read (Memory.ofBytes f) a = f a :=
  Memory.read_filterMap f _ a (List.mem_range.mpr ha)

/-- Two canonical memories with the same bytes are the same list. -/
theorem Memory.ext_wfFrom : ∀ {m m' : Memory} {lo : Nat}, Memory.wfFrom lo m = true → Memory.wfFrom lo m' = true →
    (∀ a, Memory.read m a = Memory.read m' a) → m = m'
  | [], [], _, _, _, _ => rfl
  | [], (k, b) :: m', _, _, h', he => by
    have hc := (Memory.wfFrom_cons _ _ _ _).mp h'
    have := he k
    simp only [Memory.read, if_true] at this
    exact absurd this.symm hc.2.2.1
  | (k, b) :: m, [], _, h, _, he => by
    have hc := (Memory.wfFrom_cons _ _ _ _).mp h
    have := he k
    simp only [Memory.read, if_true] at this
    exact absurd this hc.2.2.1
  | (k, b) :: m, (k', b') :: m', lo, h, h', he => by
    have hc := (Memory.wfFrom_cons _ _ _ _).mp h
    have hc' := (Memory.wfFrom_cons _ _ _ _).mp h'
    have hkk : k = k' := by
      rcases Nat.lt_trichotomy k k' with hlt | heq | hlt
      · have := he k
        have hne : k' ≠ k := by omega
        simp only [Memory.read, if_true, if_neg hne] at this
        rw [Memory.read_below hc'.2.2.2 (by omega)] at this
        exact absurd this hc.2.2.1
      · exact heq
      · have := he k'
        have hne : k ≠ k' := by omega
        simp only [Memory.read, if_true, if_neg hne] at this
        rw [Memory.read_below hc.2.2.2 (by omega)] at this
        exact absurd this.symm hc'.2.2.1
    subst hkk
    have hb : b = b' := by simpa [Memory.read] using he k
    subst hb
    have hm : m = m' := by
      refine Memory.ext_wfFrom hc.2.2.2 hc'.2.2.2 (fun a => ?_)
      by_cases hka : k = a
      · subst hka
        rw [Memory.read_below hc.2.2.2 (by omega), Memory.read_below hc'.2.2.2 (by omega)]
      · have := he a
        simpa only [Memory.read, if_neg hka] using this
    rw [hm]

theorem Memory.ext_wf {m m' : Memory} (h : Memory.wf m = true) (h' : Memory.wf m' = true)
    (he : ∀ a, Memory.read m a = Memory.read m' a) : m = m' := Memory.ext_wfFrom h h' he

theorem Memory.ofFont_wf (font : Vector Byte 80) : Memory.wf (Memory.ofFont font) = true :=
  Memory.writeBlock_wf _ _ rfl

end Sys2Proof.Machine
end

