-- ==== Sys2Proof/Laws/State.lean ====
section
/-! SUPPORT. One lemma per field per update of State, true by rfl, so that no later proof unfolds a record update. -/

namespace Sys2Proof.Machine

section setV
variable (s : State) (x : Nibble) (b : Byte)
@[simp] theorem State.setV_v : (s.setV x b).v = s.v.set x.toNat b x.isLt := rfl
@[simp] theorem State.setV_i : (s.setV x b).i = s.i := rfl
@[simp] theorem State.setV_pc : (s.setV x b).pc = s.pc := rfl
@[simp] theorem State.setV_sp : (s.setV x b).sp = s.sp := rfl
@[simp] theorem State.setV_stack : (s.setV x b).stack = s.stack := rfl
@[simp] theorem State.setV_dt : (s.setV x b).dt = s.dt := rfl
@[simp] theorem State.setV_st : (s.setV x b).st = s.st := rfl
@[simp] theorem State.setV_opc : (s.setV x b).opc = s.opc := rfl
@[simp] theorem State.setV_mem : (s.setV x b).mem = s.mem := rfl
@[simp] theorem State.setV_halted : (s.setV x b).halted = s.halted := rfl
@[simp] theorem State.setV_fault : (s.setV x b).fault = s.fault := rfl
@[simp] theorem State.setV_events : (s.setV x b).events = s.events := rfl
@[simp] theorem State.setV_awaitKey : (s.setV x b).awaitKey = s.awaitKey := rfl
@[simp] theorem State.setV_key : (s.setV x b).key = s.key := rfl
@[simp] theorem State.setV_fb : (s.setV x b).fb = s.fb := rfl
@[simp] theorem State.setV_rnd : (s.setV x b).rnd = s.rnd := rfl
@[simp] theorem State.setV_cfg : (s.setV x b).cfg = s.cfg := rfl
@[simp] theorem State.setV_free : (s.setV x b).free = s.free := rfl
end setV

section loadRegs
variable (s : State) (x : Nibble) (a : Nat)
@[simp] theorem State.loadRegs_i : (s.loadRegs x a).i = s.i := rfl
@[simp] theorem State.loadRegs_pc : (s.loadRegs x a).pc = s.pc := rfl
@[simp] theorem State.loadRegs_sp : (s.loadRegs x a).sp = s.sp := rfl
@[simp] theorem State.loadRegs_stack : (s.loadRegs x a).stack = s.stack := rfl
@[simp] theorem State.loadRegs_dt : (s.loadRegs x a).dt = s.dt := rfl
@[simp] theorem State.loadRegs_st : (s.loadRegs x a).st = s.st := rfl
@[simp] theorem State.loadRegs_opc : (s.loadRegs x a).opc = s.opc := rfl
@[simp] theorem State.loadRegs_mem : (s.loadRegs x a).mem = s.mem := rfl
@[simp] theorem State.loadRegs_halted : (s.loadRegs x a).halted = s.halted := rfl
@[simp] theorem State.loadRegs_fault : (s.loadRegs x a).fault = s.fault := rfl
@[simp] theorem State.loadRegs_events : (s.loadRegs x a).events = s.events := rfl
@[simp] theorem State.loadRegs_awaitKey : (s.loadRegs x a).awaitKey = s.awaitKey := rfl
@[simp] theorem State.loadRegs_key : (s.loadRegs x a).key = s.key := rfl
@[simp] theorem State.loadRegs_fb : (s.loadRegs x a).fb = s.fb := rfl
@[simp] theorem State.loadRegs_rnd : (s.loadRegs x a).rnd = s.rnd := rfl
@[simp] theorem State.loadRegs_cfg : (s.loadRegs x a).cfg = s.cfg := rfl
@[simp] theorem State.loadRegs_free : (s.loadRegs x a).free = s.free := rfl
end loadRegs

section advance
variable (s : State) (k : Word)
@[simp] theorem State.advance_v : (s.advance k).v = s.v := rfl
@[simp] theorem State.advance_i : (s.advance k).i = s.i := rfl
@[simp] theorem State.advance_pc : (s.advance k).pc = s.pc + k := rfl
@[simp] theorem State.advance_sp : (s.advance k).sp = s.sp := rfl
@[simp] theorem State.advance_stack : (s.advance k).stack = s.stack := rfl
@[simp] theorem State.advance_dt : (s.advance k).dt = s.dt := rfl
@[simp] theorem State.advance_st : (s.advance k).st = s.st := rfl
@[simp] theorem State.advance_opc : (s.advance k).opc = s.opc := rfl
@[simp] theorem State.advance_mem : (s.advance k).mem = s.mem := rfl
@[simp] theorem State.advance_halted : (s.advance k).halted = s.halted := rfl
@[simp] theorem State.advance_fault : (s.advance k).fault = s.fault := rfl
@[simp] theorem State.advance_events : (s.advance k).events = s.events := rfl
@[simp] theorem State.advance_awaitKey : (s.advance k).awaitKey = s.awaitKey := rfl
@[simp] theorem State.advance_key : (s.advance k).key = s.key := rfl
@[simp] theorem State.advance_fb : (s.advance k).fb = s.fb := rfl
@[simp] theorem State.advance_rnd : (s.advance k).rnd = s.rnd := rfl
@[simp] theorem State.advance_cfg : (s.advance k).cfg = s.cfg := rfl
@[simp] theorem State.advance_free : (s.advance k).free = s.free := rfl
end advance

section jumpTo
variable (s : State) (w : Word)
@[simp] theorem State.jumpTo_v : (s.jumpTo w).v = s.v := rfl
@[simp] theorem State.jumpTo_i : (s.jumpTo w).i = s.i := rfl
@[simp] theorem State.jumpTo_pc : (s.jumpTo w).pc = w := rfl
@[simp] theorem State.jumpTo_sp : (s.jumpTo w).sp = s.sp := rfl
@[simp] theorem State.jumpTo_stack : (s.jumpTo w).stack = s.stack := rfl
@[simp] theorem State.jumpTo_dt : (s.jumpTo w).dt = s.dt := rfl
@[simp] theorem State.jumpTo_st : (s.jumpTo w).st = s.st := rfl
@[simp] theorem State.jumpTo_opc : (s.jumpTo w).opc = s.opc := rfl
@[simp] theorem State.jumpTo_mem : (s.jumpTo w).mem = s.mem := rfl
@[simp] theorem State.jumpTo_halted : (s.jumpTo w).halted = s.halted := rfl
@[simp] theorem State.jumpTo_fault : (s.jumpTo w).fault = s.fault := rfl
@[simp] theorem State.jumpTo_events : (s.jumpTo w).events = s.events := rfl
@[simp] theorem State.jumpTo_awaitKey : (s.jumpTo w).awaitKey = s.awaitKey := rfl
@[simp] theorem State.jumpTo_key : (s.jumpTo w).key = s.key := rfl
@[simp] theorem State.jumpTo_fb : (s.jumpTo w).fb = s.fb := rfl
@[simp] theorem State.jumpTo_rnd : (s.jumpTo w).rnd = s.rnd := rfl
@[simp] theorem State.jumpTo_cfg : (s.jumpTo w).cfg = s.cfg := rfl
@[simp] theorem State.jumpTo_free : (s.jumpTo w).free = s.free := rfl
end jumpTo

section setI
variable (s : State) (w : Word)
@[simp] theorem State.setI_v : (s.setI w).v = s.v := rfl
@[simp] theorem State.setI_i : (s.setI w).i = w := rfl
@[simp] theorem State.setI_pc : (s.setI w).pc = s.pc := rfl
@[simp] theorem State.setI_sp : (s.setI w).sp = s.sp := rfl
@[simp] theorem State.setI_stack : (s.setI w).stack = s.stack := rfl
@[simp] theorem State.setI_dt : (s.setI w).dt = s.dt := rfl
@[simp] theorem State.setI_st : (s.setI w).st = s.st := rfl
@[simp] theorem State.setI_opc : (s.setI w).opc = s.opc := rfl
@[simp] theorem State.setI_mem : (s.setI w).mem = s.mem := rfl
@[simp] theorem State.setI_halted : (s.setI w).halted = s.halted := rfl
@[simp] theorem State.setI_fault : (s.setI w).fault = s.fault := rfl
@[simp] theorem State.setI_events : (s.setI w).events = s.events := rfl
@[simp] theorem State.setI_awaitKey : (s.setI w).awaitKey = s.awaitKey := rfl
@[simp] theorem State.setI_key : (s.setI w).key = s.key := rfl
@[simp] theorem State.setI_fb : (s.setI w).fb = s.fb := rfl
@[simp] theorem State.setI_rnd : (s.setI w).rnd = s.rnd := rfl
@[simp] theorem State.setI_cfg : (s.setI w).cfg = s.cfg := rfl
@[simp] theorem State.setI_free : (s.setI w).free = s.free := rfl
end setI

section setDt
variable (s : State) (b : Byte)
@[simp] theorem State.setDt_v : (s.setDt b).v = s.v := rfl
@[simp] theorem State.setDt_i : (s.setDt b).i = s.i := rfl
@[simp] theorem State.setDt_pc : (s.setDt b).pc = s.pc := rfl
@[simp] theorem State.setDt_sp : (s.setDt b).sp = s.sp := rfl
@[simp] theorem State.setDt_stack : (s.setDt b).stack = s.stack := rfl
@[simp] theorem State.setDt_dt : (s.setDt b).dt = b := rfl
@[simp] theorem State.setDt_st : (s.setDt b).st = s.st := rfl
@[simp] theorem State.setDt_opc : (s.setDt b).opc = s.opc := rfl
@[simp] theorem State.setDt_mem : (s.setDt b).mem = s.mem := rfl
@[simp] theorem State.setDt_halted : (s.setDt b).halted = s.halted := rfl
@[simp] theorem State.setDt_fault : (s.setDt b).fault = s.fault := rfl
@[simp] theorem State.setDt_events : (s.setDt b).events = s.events := rfl
@[simp] theorem State.setDt_awaitKey : (s.setDt b).awaitKey = s.awaitKey := rfl
@[simp] theorem State.setDt_key : (s.setDt b).key = s.key := rfl
@[simp] theorem State.setDt_fb : (s.setDt b).fb = s.fb := rfl
@[simp] theorem State.setDt_rnd : (s.setDt b).rnd = s.rnd := rfl
@[simp] theorem State.setDt_cfg : (s.setDt b).cfg = s.cfg := rfl
@[simp] theorem State.setDt_free : (s.setDt b).free = s.free := rfl
end setDt

section setSt
variable (s : State) (b : Byte)
@[simp] theorem State.setSt_v : (s.setSt b).v = s.v := rfl
@[simp] theorem State.setSt_i : (s.setSt b).i = s.i := rfl
@[simp] theorem State.setSt_pc : (s.setSt b).pc = s.pc := rfl
@[simp] theorem State.setSt_sp : (s.setSt b).sp = s.sp := rfl
@[simp] theorem State.setSt_stack : (s.setSt b).stack = s.stack := rfl
@[simp] theorem State.setSt_dt : (s.setSt b).dt = s.dt := rfl
@[simp] theorem State.setSt_st : (s.setSt b).st = b := rfl
@[simp] theorem State.setSt_opc : (s.setSt b).opc = s.opc := rfl
@[simp] theorem State.setSt_mem : (s.setSt b).mem = s.mem := rfl
@[simp] theorem State.setSt_halted : (s.setSt b).halted = s.halted := rfl
@[simp] theorem State.setSt_fault : (s.setSt b).fault = s.fault := rfl
@[simp] theorem State.setSt_events : (s.setSt b).events = s.events := rfl
@[simp] theorem State.setSt_awaitKey : (s.setSt b).awaitKey = s.awaitKey := rfl
@[simp] theorem State.setSt_key : (s.setSt b).key = s.key := rfl
@[simp] theorem State.setSt_fb : (s.setSt b).fb = s.fb := rfl
@[simp] theorem State.setSt_rnd : (s.setSt b).rnd = s.rnd := rfl
@[simp] theorem State.setSt_cfg : (s.setSt b).cfg = s.cfg := rfl
@[simp] theorem State.setSt_free : (s.setSt b).free = s.free := rfl
end setSt

section setMem
variable (s : State) (m : Memory)
@[simp] theorem State.setMem_v : (s.setMem m).v = s.v := rfl
@[simp] theorem State.setMem_i : (s.setMem m).i = s.i := rfl
@[simp] theorem State.setMem_pc : (s.setMem m).pc = s.pc := rfl
@[simp] theorem State.setMem_sp : (s.setMem m).sp = s.sp := rfl
@[simp] theorem State.setMem_stack : (s.setMem m).stack = s.stack := rfl
@[simp] theorem State.setMem_dt : (s.setMem m).dt = s.dt := rfl
@[simp] theorem State.setMem_st : (s.setMem m).st = s.st := rfl
@[simp] theorem State.setMem_opc : (s.setMem m).opc = s.opc := rfl
@[simp] theorem State.setMem_mem : (s.setMem m).mem = m := rfl
@[simp] theorem State.setMem_halted : (s.setMem m).halted = s.halted := rfl
@[simp] theorem State.setMem_fault : (s.setMem m).fault = s.fault := rfl
@[simp] theorem State.setMem_events : (s.setMem m).events = s.events := rfl
@[simp] theorem State.setMem_awaitKey : (s.setMem m).awaitKey = s.awaitKey := rfl
@[simp] theorem State.setMem_key : (s.setMem m).key = s.key := rfl
@[simp] theorem State.setMem_fb : (s.setMem m).fb = s.fb := rfl
@[simp] theorem State.setMem_rnd : (s.setMem m).rnd = s.rnd := rfl
@[simp] theorem State.setMem_cfg : (s.setMem m).cfg = s.cfg := rfl
@[simp] theorem State.setMem_free : (s.setMem m).free = s.free := rfl
end setMem

section setFb
variable (s : State) (fb : Framebuffer)
@[simp] theorem State.setFb_v : (s.setFb fb).v = s.v := rfl
@[simp] theorem State.setFb_i : (s.setFb fb).i = s.i := rfl
@[simp] theorem State.setFb_pc : (s.setFb fb).pc = s.pc := rfl
@[simp] theorem State.setFb_sp : (s.setFb fb).sp = s.sp := rfl
@[simp] theorem State.setFb_stack : (s.setFb fb).stack = s.stack := rfl
@[simp] theorem State.setFb_dt : (s.setFb fb).dt = s.dt := rfl
@[simp] theorem State.setFb_st : (s.setFb fb).st = s.st := rfl
@[simp] theorem State.setFb_opc : (s.setFb fb).opc = s.opc := rfl
@[simp] theorem State.setFb_mem : (s.setFb fb).mem = s.mem := rfl
@[simp] theorem State.setFb_halted : (s.setFb fb).halted = s.halted := rfl
@[simp] theorem State.setFb_fault : (s.setFb fb).fault = s.fault := rfl
@[simp] theorem State.setFb_events : (s.setFb fb).events = s.events := rfl
@[simp] theorem State.setFb_awaitKey : (s.setFb fb).awaitKey = s.awaitKey := rfl
@[simp] theorem State.setFb_key : (s.setFb fb).key = s.key := rfl
@[simp] theorem State.setFb_fb : (s.setFb fb).fb = fb := rfl
@[simp] theorem State.setFb_rnd : (s.setFb fb).rnd = s.rnd := rfl
@[simp] theorem State.setFb_cfg : (s.setFb fb).cfg = s.cfg := rfl
@[simp] theorem State.setFb_free : (s.setFb fb).free = s.free := rfl
end setFb

section push
variable (s : State) (w : Word)
@[simp] theorem State.push_v : (s.push w).v = s.v := rfl
@[simp] theorem State.push_i : (s.push w).i = s.i := rfl
@[simp] theorem State.push_pc : (s.push w).pc = s.pc := rfl
@[simp] theorem State.push_sp : (s.push w).sp = Fin.ofNat 17 (s.sp.val + 1) := rfl
@[simp] theorem State.push_stack : (s.push w).stack = s.stack.setIfInBounds s.sp.val w := rfl
@[simp] theorem State.push_dt : (s.push w).dt = s.dt := rfl
@[simp] theorem State.push_st : (s.push w).st = s.st := rfl
@[simp] theorem State.push_opc : (s.push w).opc = s.opc := rfl
@[simp] theorem State.push_mem : (s.push w).mem = s.mem := rfl
@[simp] theorem State.push_halted : (s.push w).halted = s.halted := rfl
@[simp] theorem State.push_fault : (s.push w).fault = s.fault := rfl
@[simp] theorem State.push_events : (s.push w).events = s.events := rfl
@[simp] theorem State.push_awaitKey : (s.push w).awaitKey = s.awaitKey := rfl
@[simp] theorem State.push_key : (s.push w).key = s.key := rfl
@[simp] theorem State.push_fb : (s.push w).fb = s.fb := rfl
@[simp] theorem State.push_rnd : (s.push w).rnd = s.rnd := rfl
@[simp] theorem State.push_cfg : (s.push w).cfg = s.cfg := rfl
@[simp] theorem State.push_free : (s.push w).free = s.free := rfl
end push

section pop
variable (s : State) 
@[simp] theorem State.pop_v : s.pop.v = s.v := rfl
@[simp] theorem State.pop_i : s.pop.i = s.i := rfl
@[simp] theorem State.pop_pc : s.pop.pc = s.pc := rfl
@[simp] theorem State.pop_sp : s.pop.sp = Fin.ofNat 17 (s.sp.val - 1) := rfl
@[simp] theorem State.pop_stack : s.pop.stack = s.stack := rfl
@[simp] theorem State.pop_dt : s.pop.dt = s.dt := rfl
@[simp] theorem State.pop_st : s.pop.st = s.st := rfl
@[simp] theorem State.pop_opc : s.pop.opc = s.opc := rfl
@[simp] theorem State.pop_mem : s.pop.mem = s.mem := rfl
@[simp] theorem State.pop_halted : s.pop.halted = s.halted := rfl
@[simp] theorem State.pop_fault : s.pop.fault = s.fault := rfl
@[simp] theorem State.pop_events : s.pop.events = s.events := rfl
@[simp] theorem State.pop_awaitKey : s.pop.awaitKey = s.awaitKey := rfl
@[simp] theorem State.pop_key : s.pop.key = s.key := rfl
@[simp] theorem State.pop_fb : s.pop.fb = s.fb := rfl
@[simp] theorem State.pop_rnd : s.pop.rnd = s.rnd := rfl
@[simp] theorem State.pop_cfg : s.pop.cfg = s.cfg := rfl
@[simp] theorem State.pop_free : s.pop.free = s.free := rfl
end pop

section fetched
variable (s : State) 
@[simp] theorem State.fetched_v : s.fetched.v = s.v := rfl
@[simp] theorem State.fetched_i : s.fetched.i = s.i := rfl
@[simp] theorem State.fetched_pc : s.fetched.pc = s.pc := rfl
@[simp] theorem State.fetched_sp : s.fetched.sp = s.sp := rfl
@[simp] theorem State.fetched_stack : s.fetched.stack = s.stack := rfl
@[simp] theorem State.fetched_dt : s.fetched.dt = s.dt := rfl
@[simp] theorem State.fetched_st : s.fetched.st = s.st := rfl
@[simp] theorem State.fetched_opc : s.fetched.opc = s.fetchWord := rfl
@[simp] theorem State.fetched_mem : s.fetched.mem = s.mem := rfl
@[simp] theorem State.fetched_halted : s.fetched.halted = s.halted := rfl
@[simp] theorem State.fetched_fault : s.fetched.fault = s.fault := rfl
@[simp] theorem State.fetched_events : s.fetched.events = s.events := rfl
@[simp] theorem State.fetched_awaitKey : s.fetched.awaitKey = s.awaitKey := rfl
@[simp] theorem State.fetched_key : s.fetched.key = s.key := rfl
@[simp] theorem State.fetched_fb : s.fetched.fb = s.fb := rfl
@[simp] theorem State.fetched_rnd : s.fetched.rnd = Config.randomByte s.free := rfl
@[simp] theorem State.fetched_cfg : s.fetched.cfg = s.cfg := rfl
@[simp] theorem State.fetched_free : s.fetched.free = s.free + 1 := rfl
end fetched

section emitUnknown
variable (s : State) 
@[simp] theorem State.emitUnknown_v : s.emitUnknown.v = s.v := rfl
@[simp] theorem State.emitUnknown_i : s.emitUnknown.i = s.i := rfl
@[simp] theorem State.emitUnknown_pc : s.emitUnknown.pc = s.pc + 2#16 := rfl
@[simp] theorem State.emitUnknown_sp : s.emitUnknown.sp = s.sp := rfl
@[simp] theorem State.emitUnknown_stack : s.emitUnknown.stack = s.stack := rfl
@[simp] theorem State.emitUnknown_dt : s.emitUnknown.dt = s.dt := rfl
@[simp] theorem State.emitUnknown_st : s.emitUnknown.st = s.st := rfl
@[simp] theorem State.emitUnknown_opc : s.emitUnknown.opc = s.opc := rfl
@[simp] theorem State.emitUnknown_mem : s.emitUnknown.mem = s.mem := rfl
@[simp] theorem State.emitUnknown_halted : s.emitUnknown.halted = s.halted := rfl
@[simp] theorem State.emitUnknown_fault : s.emitUnknown.fault = s.fault := rfl
@[simp] theorem State.emitUnknown_events : s.emitUnknown.events = s.events ++ [{ pc := s.pc, opcode := s.opc }] := rfl
@[simp] theorem State.emitUnknown_awaitKey : s.emitUnknown.awaitKey = s.awaitKey := rfl
@[simp] theorem State.emitUnknown_key : s.emitUnknown.key = s.key := rfl
@[simp] theorem State.emitUnknown_fb : s.emitUnknown.fb = s.fb := rfl
@[simp] theorem State.emitUnknown_rnd : s.emitUnknown.rnd = s.rnd := rfl
@[simp] theorem State.emitUnknown_cfg : s.emitUnknown.cfg = s.cfg := rfl
@[simp] theorem State.emitUnknown_free : s.emitUnknown.free = s.free := rfl
end emitUnknown

section endCycle
variable (s : State) (w : Bool)
@[simp] theorem State.endCycle_v : (s.endCycle w).v = s.v := rfl
@[simp] theorem State.endCycle_i : (s.endCycle w).i = s.i := rfl
@[simp] theorem State.endCycle_pc : (s.endCycle w).pc = s.pc := rfl
@[simp] theorem State.endCycle_sp : (s.endCycle w).sp = s.sp := rfl
@[simp] theorem State.endCycle_stack : (s.endCycle w).stack = s.stack := rfl
@[simp] theorem State.endCycle_dt : (s.endCycle w).dt = tickByte s.dt := rfl
@[simp] theorem State.endCycle_st : (s.endCycle w).st = tickByte s.st := rfl
@[simp] theorem State.endCycle_opc : (s.endCycle w).opc = s.opc := rfl
@[simp] theorem State.endCycle_mem : (s.endCycle w).mem = s.mem := rfl
@[simp] theorem State.endCycle_halted : (s.endCycle w).halted = s.halted := rfl
@[simp] theorem State.endCycle_fault : (s.endCycle w).fault = s.fault := rfl
@[simp] theorem State.endCycle_events : (s.endCycle w).events = s.events := rfl
@[simp] theorem State.endCycle_awaitKey : (s.endCycle w).awaitKey = w := rfl
@[simp] theorem State.endCycle_key : (s.endCycle w).key = s.key := rfl
@[simp] theorem State.endCycle_fb : (s.endCycle w).fb = s.fb := rfl
@[simp] theorem State.endCycle_rnd : (s.endCycle w).rnd = s.rnd := rfl
@[simp] theorem State.endCycle_cfg : (s.endCycle w).cfg = s.cfg := rfl
@[simp] theorem State.endCycle_free : (s.endCycle w).free = s.free := rfl
end endCycle

section takeFault
variable (s : State) (c : FaultCode) (op : Option Word) (a : Nat)
@[simp] theorem State.takeFault_dt : (s.takeFault c op a).dt = s.dt := rfl
@[simp] theorem State.takeFault_st : (s.takeFault c op a).st = s.st := rfl
@[simp] theorem State.takeFault_mem : (s.takeFault c op a).mem = Memory.ofBytes (Config.faultedMem s.free) := by simp only [State.takeFault]
@[simp] theorem State.takeFault_halted : (s.takeFault c op a).halted = true := rfl
@[simp] theorem State.takeFault_fault : (s.takeFault c op a).fault = some { code := c, pc := s.pc, opcode := op, addr := a } := rfl
@[simp] theorem State.takeFault_events : (s.takeFault c op a).events = s.events := rfl
@[simp] theorem State.takeFault_awaitKey : (s.takeFault c op a).awaitKey = s.awaitKey := rfl
@[simp] theorem State.takeFault_key : (s.takeFault c op a).key = s.key := rfl
@[simp] theorem State.takeFault_rnd : (s.takeFault c op a).rnd = s.rnd := rfl
@[simp] theorem State.takeFault_cfg : (s.takeFault c op a).cfg = s.cfg := rfl
@[simp] theorem State.takeFault_free : (s.takeFault c op a).free = s.free + 1 := rfl
end takeFault

section writeRF
variable (s : State) (x : Nibble) (r f : Byte)
@[simp] theorem State.writeRF_i : (s.writeRF x r f).i = s.i := by unfold State.writeRF; split <;> rfl
@[simp] theorem State.writeRF_pc : (s.writeRF x r f).pc = s.pc := by unfold State.writeRF; split <;> rfl
@[simp] theorem State.writeRF_sp : (s.writeRF x r f).sp = s.sp := by unfold State.writeRF; split <;> rfl
@[simp] theorem State.writeRF_stack : (s.writeRF x r f).stack = s.stack := by unfold State.writeRF; split <;> rfl
@[simp] theorem State.writeRF_dt : (s.writeRF x r f).dt = s.dt := by unfold State.writeRF; split <;> rfl
@[simp] theorem State.writeRF_st : (s.writeRF x r f).st = s.st := by unfold State.writeRF; split <;> rfl
@[simp] theorem State.writeRF_opc : (s.writeRF x r f).opc = s.opc := by unfold State.writeRF; split <;> rfl
@[simp] theorem State.writeRF_mem : (s.writeRF x r f).mem = s.mem := by unfold State.writeRF; split <;> rfl
@[simp] theorem State.writeRF_halted : (s.writeRF x r f).halted = s.halted := by unfold State.writeRF; split <;> rfl
@[simp] theorem State.writeRF_fault : (s.writeRF x r f).fault = s.fault := by unfold State.writeRF; split <;> rfl
@[simp] theorem State.writeRF_events : (s.writeRF x r f).events = s.events := by unfold State.writeRF; split <;> rfl
@[simp] theorem State.writeRF_awaitKey : (s.writeRF x r f).awaitKey = s.awaitKey := by unfold State.writeRF; split <;> rfl
@[simp] theorem State.writeRF_key : (s.writeRF x r f).key = s.key := by unfold State.writeRF; split <;> rfl
@[simp] theorem State.writeRF_fb : (s.writeRF x r f).fb = s.fb := by unfold State.writeRF; split <;> rfl
@[simp] theorem State.writeRF_rnd : (s.writeRF x r f).rnd = s.rnd := by unfold State.writeRF; split <;> rfl
@[simp] theorem State.writeRF_cfg : (s.writeRF x r f).cfg = s.cfg := by unfold State.writeRF; split <;> rfl
@[simp] theorem State.writeRF_free : (s.writeRF x r f).free = s.free := by unfold State.writeRF; split <;> rfl
end writeRF

section skipIf
variable (s : State) (c : Bool)
@[simp] theorem State.skipIf_v : (s.skipIf c).v = s.v := by cases c <;> rfl
@[simp] theorem State.skipIf_i : (s.skipIf c).i = s.i := by cases c <;> rfl
@[simp] theorem State.skipIf_pc : (s.skipIf c).pc = s.pc + (if c then 4#16 else 2#16) := by cases c <;> rfl
@[simp] theorem State.skipIf_sp : (s.skipIf c).sp = s.sp := by cases c <;> rfl
@[simp] theorem State.skipIf_stack : (s.skipIf c).stack = s.stack := by cases c <;> rfl
@[simp] theorem State.skipIf_dt : (s.skipIf c).dt = s.dt := by cases c <;> rfl
@[simp] theorem State.skipIf_st : (s.skipIf c).st = s.st := by cases c <;> rfl
@[simp] theorem State.skipIf_opc : (s.skipIf c).opc = s.opc := by cases c <;> rfl
@[simp] theorem State.skipIf_mem : (s.skipIf c).mem = s.mem := by cases c <;> rfl
@[simp] theorem State.skipIf_halted : (s.skipIf c).halted = s.halted := by cases c <;> rfl
@[simp] theorem State.skipIf_fault : (s.skipIf c).fault = s.fault := by cases c <;> rfl
@[simp] theorem State.skipIf_events : (s.skipIf c).events = s.events := by cases c <;> rfl
@[simp] theorem State.skipIf_awaitKey : (s.skipIf c).awaitKey = s.awaitKey := by cases c <;> rfl
@[simp] theorem State.skipIf_key : (s.skipIf c).key = s.key := by cases c <;> rfl
@[simp] theorem State.skipIf_fb : (s.skipIf c).fb = s.fb := by cases c <;> rfl
@[simp] theorem State.skipIf_rnd : (s.skipIf c).rnd = s.rnd := by cases c <;> rfl
@[simp] theorem State.skipIf_cfg : (s.skipIf c).cfg = s.cfg := by cases c <;> rfl
@[simp] theorem State.skipIf_free : (s.skipIf c).free = s.free := by cases c <;> rfl
end skipIf

end Sys2Proof.Machine
end

