-- ==== Sys2Proof/Laws/Regs.lean ====
section
/-! SUPPORT. What the shared operations over registers, stack and keypad do, said once. -/

namespace Sys2Proof.Machine

/-! ### General registers -/

theorem State.getV_setV (s : State) (x y : Nibble) (b : Byte) :
    (s.setV x b).getV y = if y = x then b else s.getV y := by
  simp only [State.getV, State.setV, Vector.getElem_set]
  by_cases h : x = y
  · subst h; simp
  · have h' : x.toNat ≠ y.toNat := fun e => h (BitVec.eq_of_toNat_eq e)
    simp [h', Ne.symm h]

@[simp] theorem State.getV_setV_same (s : State) (x : Nibble) (b : Byte) : (s.setV x b).getV x = b := by
  simp [State.getV_setV]

theorem State.getV_writeRF (s : State) (x y : Nibble) (r f : Byte) :
    (s.writeRF x r f).getV y =
      if y = x ∧ (x ≠ flagReg ∨ s.cfg.vfOrder = .resultLast) then r
      else if y = flagReg then f else s.getV y := by
  unfold State.writeRF
  cases s.cfg.vfOrder <;> simp only [State.getV_setV]
  · by_cases hx : y = x
    · subst hx
      by_cases hy : y = flagReg <;> simp only [hy, if_true, if_false, ne_eq, not_true, not_false_eq_true, true_and,
        true_or, false_or, reduceCtorEq]
    · simp only [hx, false_and, if_false]
  · by_cases hx : y = x <;> simp only [hx, if_true, if_false, true_and, false_and, or_true]

theorem State.getV_loadRegs (s : State) (x y : Nibble) (a : Nat) :
    (s.loadRegs x a).getV y =
      if y.toNat ≤ x.toNat then Memory.read s.mem (a + y.toNat) else s.getV y := by
  simp [State.getV, State.loadRegs]

/-- Two register files with the same registers are the same. -/
theorem State.v_ext {s t : State} (h : ∀ x, s.getV x = t.getV x) : s.v = t.v := by
  refine Vector.ext (fun k hk => ?_)
  have := h (BitVec.ofNat 4 k)
  have hk' : k % 16 = k := Nat.mod_eq_of_lt hk
  simpa [State.getV, hk'] using this

@[simp] theorem State.getV_advance (s : State) (k : Word) (y : Nibble) : (s.advance k).getV y = s.getV y := rfl
@[simp] theorem State.getV_jumpTo (s : State) (w : Word) (y : Nibble) : (s.jumpTo w).getV y = s.getV y := rfl
@[simp] theorem State.getV_setI (s : State) (w : Word) (y : Nibble) : (s.setI w).getV y = s.getV y := rfl
@[simp] theorem State.getV_setDt (s : State) (b : Byte) (y : Nibble) : (s.setDt b).getV y = s.getV y := rfl
@[simp] theorem State.getV_setSt (s : State) (b : Byte) (y : Nibble) : (s.setSt b).getV y = s.getV y := rfl
@[simp] theorem State.getV_setMem (s : State) (m : Memory) (y : Nibble) : (s.setMem m).getV y = s.getV y := rfl
@[simp] theorem State.getV_setFb (s : State) (fb : Framebuffer) (y : Nibble) : (s.setFb fb).getV y = s.getV y := rfl
@[simp] theorem State.getV_push (s : State) (w : Word) (y : Nibble) : (s.push w).getV y = s.getV y := rfl
@[simp] theorem State.getV_pop (s : State) (y : Nibble) : s.pop.getV y = s.getV y := rfl
@[simp] theorem State.getV_skipIf (s : State) (c : Bool) (y : Nibble) : (s.skipIf c).getV y = s.getV y := by
  cases c <;> rfl
@[simp] theorem State.getV_fetched (s : State) (y : Nibble) : s.fetched.getV y = s.getV y := rfl
@[simp] theorem State.getV_emitUnknown (s : State) (y : Nibble) : s.emitUnknown.getV y = s.getV y := rfl
@[simp] theorem State.getV_endCycle (s : State) (w : Bool) (y : Nibble) : (s.endCycle w).getV y = s.getV y := rfl

theorem State.regBytes_length (s : State) (x : Nibble) : (s.regBytes x).length = x.toNat + 1 := by
  have := x.isLt
  simp only [State.regBytes, List.length_take, Vector.length_toList]
  omega

theorem State.regBytes_getElem (s : State) (x y : Nibble) (h : y.toNat < (s.regBytes x).length) :
    (s.regBytes x)[y.toNat] = s.getV y := by
  simp [State.regBytes, State.getV]

/-! ### Call stack -/

theorem State.stackAt_push (s : State) (w : Word) (h : s.sp.val < 16) (k : Nat) :
    (s.push w).stackAt k = if k = s.sp.val then w else s.stackAt k := by
  simp only [State.stackAt, State.push, Vector.getElem?_setIfInBounds]
  by_cases hk : s.sp.val = k
  · subst hk; simp [h]
  · simp [hk, Ne.symm hk]

theorem State.push_sp_val (s : State) (w : Word) (h : s.sp.val < 16) : (s.push w).sp.val = s.sp.val + 1 := by
  simp only [State.push_sp, Fin.ofNat]
  omega

theorem State.pop_sp_val (s : State) : s.pop.sp.val = s.sp.val - 1 := by
  have := s.sp.isLt
  simp only [State.pop_sp, Fin.ofNat]
  omega

@[simp] theorem State.stackAt_pop (s : State) (k : Nat) : s.pop.stackAt k = s.stackAt k := rfl
@[simp] theorem State.stackAt_jumpTo (s : State) (w : Word) (k : Nat) : (s.jumpTo w).stackAt k = s.stackAt k := rfl
@[simp] theorem State.stackAt_advance (s : State) (w : Word) (k : Nat) : (s.advance w).stackAt k = s.stackAt k := rfl

/-! ### Keypad -/

theorem State.pressedKey_some {s : State} {k : Nat} (h : s.pressedKey = some k) :
    k < 16 ∧ s.isPressed k = true ∧ ∀ j < k, s.isPressed j = false := by
  have h' := List.find?_eq_some_iff_getElem.mp h
  obtain ⟨hp, i, hi, hik, hlt⟩ := h'
  simp only [List.length_range] at hi
  simp only [List.getElem_range] at hik hlt
  subst hik
  exact ⟨hi, hp, fun j hj => by simpa using hlt j hj⟩

theorem State.pressedKey_none {s : State} : s.pressedKey = none ↔ ∀ k < 16, s.isPressed k = false := by
  simp [State.pressedKey]

end Sys2Proof.Machine
end

