-- ==== Sys2Proof/Laws/Exec.lean ====
section
/-! SUPPORT. What `exec` and `step` can do, said once. -/

namespace Sys2Proof.Machine

/-- The elements no completed execute touches: the latched opcode, the status, the keys, the random input, the
parameters and the model's counter (R46, R47, R48, R51). -/
def SameStatus (s t : State) : Prop :=
  t.opc = s.opc ∧ t.halted = s.halted ∧ t.fault = s.fault ∧ t.events = s.events ∧ t.awaitKey = s.awaitKey ∧
    t.key = s.key ∧ t.rnd = s.rnd ∧ t.cfg = s.cfg ∧ t.free = s.free

/-- Execute answers a next state: a fatal fault of the instruction's own taken, or a completion that leaves the status
untouched. -/
def AnswersNext (s : State) (o : Host.Outcome State Fault Refusal) : Prop :=
  ∃ t, o = .next t ∧ ((∃ code addr, t = s.takeFault code (some s.opc) addr) ∨ SameStatus s t)

theorem answersNext_fatal (s : State) (code : FaultCode) (addr : Nat) : AnswersNext s (raiseFatal code addr s) :=
  ⟨_, rfl, .inl ⟨code, addr, rfl⟩⟩

theorem answersNext_next {s t : State} (h : SameStatus s t) : AnswersNext s (.next t) := ⟨t, rfl, .inr h⟩

theorem answersNext_check {s t : State} (c : Prop) [Decidable c] (code : FaultCode) (addr : Nat)
    (h : SameStatus s t) : AnswersNext s (if c then raiseFatal code addr s else .next t) := by
  split
  · exact answersNext_fatal s code addr
  · exact answersNext_next h

theorem sameStatus_reg (s : State) (x : Nibble) (b : Byte) : SameStatus s (s.finishReg x b) := by
  simp [SameStatus, State.finishReg]

theorem sameStatus_alu (s : State) (x : Nibble) (r : AluResult) : SameStatus s (s.finishAlu x r) := by
  simp [SameStatus, State.finishAlu]

theorem sameStatus_skip (s : State) (c : Bool) : SameStatus s (s.skipIf c) := by
  simp [SameStatus]

theorem exec_answersNext (i : Instr) (s : State) : AnswersNext s (exec i s) := by
  cases i with
  | cls | jp | ldINnn | jpV0 | ldVxDt | ldDtVx | ldStVx | ldFVx => exact answersNext_next (by simp [SameStatus])
  | seVxNn | sneVxNn | seVxVy | sneVxVy => exact answersNext_next (sameStatus_skip s _)
  | ldVxNn | addVxNn | ldVxVy | orVxVy | andVxVy | xorVxVy | rndVxNn => exact answersNext_next (sameStatus_reg s _ _)
  | addVxVy | subVxVy | shrVx | subnVxVy | shlVx => exact answersNext_next (sameStatus_alu s _ _)
  | skp | sknp => exact answersNext_check _ _ _ (sameStatus_skip s _)
  | ret | call | drw | addIVx | ldBVx | ldMemVx | ldVxMem => exact answersNext_check _ _ _ (by simp [SameStatus])
  | ldVxK x =>
    simp only [exec, execLdVxK]
    split
    · exact answersNext_next (by simp [SameStatus])
    · exact answersNext_next (by simp [SameStatus])

/-- Every instruction answers a next state in every state. -/
theorem exec_next (i : Instr) (s : State) : ∃ t, exec i s = .next t :=
  (exec_answersNext i s).imp fun _ h => h.1

/-- Execute either takes a fatal fault of the instruction's own or completes with the status untouched. -/
theorem exec_cases {i : Instr} {s t : State} (h : exec i s = .next t) :
    (∃ code addr, t = s.takeFault code (some s.opc) addr) ∨ SameStatus s t := by
  obtain ⟨u, hu, hc⟩ := exec_answersNext i s
  obtain rfl : u = t := Host.Outcome.next.inj (hu.symm.trans h)
  exact hc

/-- What one step can do: a fetch fault, an UNKNOWN cycle, or a decoded instruction that faults or completes. -/
theorem step_cases {s t : State} (h : step s = .next t) :
    s.halted = false ∧
      ((∃ code, s.fetchFault = some code ∧ t = s.takeFault code none s.pc.toNat) ∨
        (s.fetchFault = none ∧ decodeWord s.cfg.decodeMode s.fetchWord = none ∧
          t = s.fetched.emitUnknown.endCycle false) ∨
        (∃ i u, s.fetchFault = none ∧ decodeWord s.cfg.decodeMode s.fetchWord = some i ∧
          exec i s.fetched = .next u ∧
          t = if u.halted then u else u.endCycle (waitsForKey i s.fetched))) := by
  unfold step at h
  split at h
  · cases h
  · next hh =>
    refine ⟨by simpa using hh, ?_⟩
    unfold runCycle at h
    split at h
    · next code hc => cases h; exact .inl ⟨code, hc, rfl⟩
    · next hc =>
      unfold runFetched at h
      split at h
      · next i hi =>
        obtain ⟨u, hu⟩ := exec_next i s.fetched
        rw [hu] at h
        simp only [finishCycle] at h
        refine .inr (.inr ⟨i, u, hc, hi, hu, ?_⟩)
        split at h <;> cases h <;> simp_all
      · next hi => cases h; exact .inr (.inl ⟨hc, hi, rfl⟩)

/-- A fetch passes its checks exactly where nothing is raised (R72, R73). -/
theorem fetchFault_none {s : State} :
    s.fetchFault = none ↔ s.pc.toNat < 0xFFF ∧ (s.cfg.oddPc = .fault → s.pc.toNat % 2 = 0) := by
  unfold State.fetchFault
  split
  · simp; omega
  · split
    · next h => simp [h.1, h.2]
    · next h1 h2 =>
      simp only [true_iff]
      refine ⟨by omega, fun h => ?_⟩
      by_contra hne
      exact h2 ⟨by omega, h⟩

end Sys2Proof.Machine
end

