-- ==== Sys2Proof/Laws/PerInstr.lean ====
section
/-! SUPPORT. Statements made per instruction. `EncodesRow`: the word of an instruction matches its row of the opcode map
under both decode modes (R96, R102, R105). -/

namespace Sys2Proof.Laws

/-- A row that fixes the family alone accepts every word of the family. -/
theorem accepts_of_family {r : OpcodeRow} {mode : DecodeMode} {op : Word} (hmask : r.maskOf mode = 0xF000#16)
    (hmatch : r.matchOf mode = encodeXnn (fieldFamily op) 0#4 0#8) : r.accepts mode op = true := by
  rw [OpcodeRow.accepts, hmask, hmatch, and_familyMask, beq_self_eq_true]

/-- A row that fixes the family and `n` accepts every word with them. -/
theorem accepts_of_lowNibble {r : OpcodeRow} {mode : DecodeMode} {op : Word} (hmask : r.maskOf mode = 0xF00F#16)
    (hmatch : r.matchOf mode = encodeXyn (fieldFamily op) 0#4 0#4 (fieldN op)) : r.accepts mode op = true := by
  rw [OpcodeRow.accepts, hmask, hmatch, and_lowNibbleMask, beq_self_eq_true]

/-- A row that fixes the family and `nn` accepts every word with them. -/
theorem accepts_of_lowByte {r : OpcodeRow} {mode : DecodeMode} {op : Word} (hmask : r.maskOf mode = 0xF0FF#16)
    (hmatch : r.matchOf mode = encodeXnn (fieldFamily op) 0#4 (fieldNn op)) : r.accepts mode op = true := by
  rw [OpcodeRow.accepts, hmask, hmatch, and_lowByteMask, beq_self_eq_true]

/-- The word of `i` satisfies `(op & mask) = match` of its row. -/
def EncodesRow.Statement (i : Instr) : Prop := ∀ mode, (opcodeRow i).accepts mode (encode i) = true

theorem EncodesRow.cls : EncodesRow.Statement .cls := by
  intro mode; cases mode <;> decide

theorem EncodesRow.ret : EncodesRow.Statement .ret := by
  intro mode; cases mode <;> decide

theorem EncodesRow.jp (nnn : Addr12) : EncodesRow.Statement (.jp nnn) := fun mode =>
  accepts_of_family (by cases mode <;> rfl) (by simp only [encode, fieldFamily_encodeNnn]; cases mode <;> rfl)

theorem EncodesRow.call (nnn : Addr12) : EncodesRow.Statement (.call nnn) := fun mode =>
  accepts_of_family (by cases mode <;> rfl) (by simp only [encode, fieldFamily_encodeNnn]; cases mode <;> rfl)

theorem EncodesRow.seVxNn (x : Nibble) (nn : Byte) : EncodesRow.Statement (.seVxNn x nn) := fun mode =>
  accepts_of_family (by cases mode <;> rfl) (by simp only [encode, fieldFamily_encodeXnn]; cases mode <;> rfl)

theorem EncodesRow.sneVxNn (x : Nibble) (nn : Byte) : EncodesRow.Statement (.sneVxNn x nn) := fun mode =>
  accepts_of_family (by cases mode <;> rfl) (by simp only [encode, fieldFamily_encodeXnn]; cases mode <;> rfl)

theorem EncodesRow.seVxVy (x : Nibble) (y : Nibble) : EncodesRow.Statement (.seVxVy x y) := fun mode =>
  match mode with
  | .strict => accepts_of_lowNibble rfl (by simp only [encode, fieldFamily_encodeXyn, fieldN_encodeXyn]; rfl)
  | .lowField => accepts_of_family rfl (by simp only [encode, fieldFamily_encodeXyn]; rfl)

theorem EncodesRow.ldVxNn (x : Nibble) (nn : Byte) : EncodesRow.Statement (.ldVxNn x nn) := fun mode =>
  accepts_of_family (by cases mode <;> rfl) (by simp only [encode, fieldFamily_encodeXnn]; cases mode <;> rfl)

theorem EncodesRow.addVxNn (x : Nibble) (nn : Byte) : EncodesRow.Statement (.addVxNn x nn) := fun mode =>
  accepts_of_family (by cases mode <;> rfl) (by simp only [encode, fieldFamily_encodeXnn]; cases mode <;> rfl)

theorem EncodesRow.ldVxVy (x : Nibble) (y : Nibble) : EncodesRow.Statement (.ldVxVy x y) := fun mode =>
  accepts_of_lowNibble (by cases mode <;> rfl)
    (by simp only [encode, fieldFamily_encodeXyn, fieldN_encodeXyn]; cases mode <;> rfl)

theorem EncodesRow.orVxVy (x : Nibble) (y : Nibble) : EncodesRow.Statement (.orVxVy x y) := fun mode =>
  accepts_of_lowNibble (by cases mode <;> rfl)
    (by simp only [encode, fieldFamily_encodeXyn, fieldN_encodeXyn]; cases mode <;> rfl)

theorem EncodesRow.andVxVy (x : Nibble) (y : Nibble) : EncodesRow.Statement (.andVxVy x y) := fun mode =>
  accepts_of_lowNibble (by cases mode <;> rfl)
    (by simp only [encode, fieldFamily_encodeXyn, fieldN_encodeXyn]; cases mode <;> rfl)

theorem EncodesRow.xorVxVy (x : Nibble) (y : Nibble) : EncodesRow.Statement (.xorVxVy x y) := fun mode =>
  accepts_of_lowNibble (by cases mode <;> rfl)
    (by simp only [encode, fieldFamily_encodeXyn, fieldN_encodeXyn]; cases mode <;> rfl)

theorem EncodesRow.addVxVy (x : Nibble) (y : Nibble) : EncodesRow.Statement (.addVxVy x y) := fun mode =>
  accepts_of_lowNibble (by cases mode <;> rfl)
    (by simp only [encode, fieldFamily_encodeXyn, fieldN_encodeXyn]; cases mode <;> rfl)

theorem EncodesRow.subVxVy (x : Nibble) (y : Nibble) : EncodesRow.Statement (.subVxVy x y) := fun mode =>
  accepts_of_lowNibble (by cases mode <;> rfl)
    (by simp only [encode, fieldFamily_encodeXyn, fieldN_encodeXyn]; cases mode <;> rfl)

theorem EncodesRow.shrVx (x : Nibble) (y : Nibble) : EncodesRow.Statement (.shrVx x y) := fun mode =>
  accepts_of_lowNibble (by cases mode <;> rfl)
    (by simp only [encode, fieldFamily_encodeXyn, fieldN_encodeXyn]; cases mode <;> rfl)

theorem EncodesRow.subnVxVy (x : Nibble) (y : Nibble) : EncodesRow.Statement (.subnVxVy x y) := fun mode =>
  accepts_of_lowNibble (by cases mode <;> rfl)
    (by simp only [encode, fieldFamily_encodeXyn, fieldN_encodeXyn]; cases mode <;> rfl)

theorem EncodesRow.shlVx (x : Nibble) (y : Nibble) : EncodesRow.Statement (.shlVx x y) := fun mode =>
  accepts_of_lowNibble (by cases mode <;> rfl)
    (by simp only [encode, fieldFamily_encodeXyn, fieldN_encodeXyn]; cases mode <;> rfl)

theorem EncodesRow.sneVxVy (x : Nibble) (y : Nibble) : EncodesRow.Statement (.sneVxVy x y) := fun mode =>
  match mode with
  | .strict => accepts_of_lowNibble rfl (by simp only [encode, fieldFamily_encodeXyn, fieldN_encodeXyn]; rfl)
  | .lowField => accepts_of_family rfl (by simp only [encode, fieldFamily_encodeXyn]; rfl)

theorem EncodesRow.ldINnn (nnn : Addr12) : EncodesRow.Statement (.ldINnn nnn) := fun mode =>
  accepts_of_family (by cases mode <;> rfl) (by simp only [encode, fieldFamily_encodeNnn]; cases mode <;> rfl)

theorem EncodesRow.jpV0 (nnn : Addr12) : EncodesRow.Statement (.jpV0 nnn) := fun mode =>
  accepts_of_family (by cases mode <;> rfl) (by simp only [encode, fieldFamily_encodeNnn]; cases mode <;> rfl)

theorem EncodesRow.rndVxNn (x : Nibble) (nn : Byte) : EncodesRow.Statement (.rndVxNn x nn) := fun mode =>
  accepts_of_family (by cases mode <;> rfl) (by simp only [encode, fieldFamily_encodeXnn]; cases mode <;> rfl)

theorem EncodesRow.drw (x : Nibble) (y : Nibble) (n : Nibble) : EncodesRow.Statement (.drw x y n) := fun mode =>
  accepts_of_family (by cases mode <;> rfl) (by simp only [encode, fieldFamily_encodeXyn]; cases mode <;> rfl)

theorem EncodesRow.skp (x : Nibble) : EncodesRow.Statement (.skp x) := fun mode =>
  accepts_of_lowByte (by cases mode <;> rfl)
    (by simp only [encode, fieldFamily_encodeXnn, fieldNn_encodeXnn]; cases mode <;> rfl)

theorem EncodesRow.sknp (x : Nibble) : EncodesRow.Statement (.sknp x) := fun mode =>
  accepts_of_lowByte (by cases mode <;> rfl)
    (by simp only [encode, fieldFamily_encodeXnn, fieldNn_encodeXnn]; cases mode <;> rfl)

theorem EncodesRow.ldVxDt (x : Nibble) : EncodesRow.Statement (.ldVxDt x) := fun mode =>
  accepts_of_lowByte (by cases mode <;> rfl)
    (by simp only [encode, fieldFamily_encodeXnn, fieldNn_encodeXnn]; cases mode <;> rfl)

theorem EncodesRow.ldVxK (x : Nibble) : EncodesRow.Statement (.ldVxK x) := fun mode =>
  accepts_of_lowByte (by cases mode <;> rfl)
    (by simp only [encode, fieldFamily_encodeXnn, fieldNn_encodeXnn]; cases mode <;> rfl)

theorem EncodesRow.ldDtVx (x : Nibble) : EncodesRow.Statement (.ldDtVx x) := fun mode =>
  accepts_of_lowByte (by cases mode <;> rfl)
    (by simp only [encode, fieldFamily_encodeXnn, fieldNn_encodeXnn]; cases mode <;> rfl)

theorem EncodesRow.ldStVx (x : Nibble) : EncodesRow.Statement (.ldStVx x) := fun mode =>
  accepts_of_lowByte (by cases mode <;> rfl)
    (by simp only [encode, fieldFamily_encodeXnn, fieldNn_encodeXnn]; cases mode <;> rfl)

theorem EncodesRow.addIVx (x : Nibble) : EncodesRow.Statement (.addIVx x) := fun mode =>
  accepts_of_lowByte (by cases mode <;> rfl)
    (by simp only [encode, fieldFamily_encodeXnn, fieldNn_encodeXnn]; cases mode <;> rfl)

theorem EncodesRow.ldFVx (x : Nibble) : EncodesRow.Statement (.ldFVx x) := fun mode =>
  accepts_of_lowByte (by cases mode <;> rfl)
    (by simp only [encode, fieldFamily_encodeXnn, fieldNn_encodeXnn]; cases mode <;> rfl)

theorem EncodesRow.ldBVx (x : Nibble) : EncodesRow.Statement (.ldBVx x) := fun mode =>
  accepts_of_lowByte (by cases mode <;> rfl)
    (by simp only [encode, fieldFamily_encodeXnn, fieldNn_encodeXnn]; cases mode <;> rfl)

theorem EncodesRow.ldMemVx (x : Nibble) : EncodesRow.Statement (.ldMemVx x) := fun mode =>
  accepts_of_lowByte (by cases mode <;> rfl)
    (by simp only [encode, fieldFamily_encodeXnn, fieldNn_encodeXnn]; cases mode <;> rfl)

theorem EncodesRow.ldVxMem (x : Nibble) : EncodesRow.Statement (.ldVxMem x) := fun mode =>
  accepts_of_lowByte (by cases mode <;> rfl)
    (by simp only [encode, fieldFamily_encodeXnn, fieldNn_encodeXnn]; cases mode <;> rfl)

end Sys2Proof.Laws
end

