-- ==== Sys2Proof/Tests/Slice0.lean ====
section
/-! SUPPORT. The model's own tests. Every expected value is from spec/: the vectors of 95_test_vectors.md (named V-...),
the match and mask of R105, the examples of the instruction rules. -/

namespace Sys2Proof.Tests

open Sys2Proof.Machine

/-- Reads something of the next state. -/
def after {α : Type} (f : State → α) : Host.Outcome State Fault Refusal → Option α
  | .next t => some (f t)
  | _ => none

/-- One `step_cycle()` of a state with a word placed at `pc`. -/
def runWord (w : Nat) (s : State) : Host.Outcome State Fault Refusal := step (s.withFetchWord 16 w)

/-- The halt status and the fault record. -/
def faultOf (t : State) : Bool × Option FaultRecord := (t.halted, t.fault)

/-- The fault record of a fault by the instruction `op` at 0x200. -/
def faultAt200 (code : FaultCode) (op : Word) (addr : Nat) : Bool × Option FaultRecord :=
  (true, some { code := code, pc := 0x200#16, opcode := some op, addr := addr })

/-- Reset, with some general registers set. -/
def withRegs (l : List (Nibble × Byte)) : State := l.foldl (fun s p => s.setV p.1 p.2) State.reset

/-- Memory holding the given bytes from 0x300 on. -/
def at300 (bs : List Byte) (s : State) : State := (s.setMem (Memory.writeBlock s.mem 0x300 bs)).setI 0x300#16

/-- The given pixels toggled. -/
def withPixels (ps : List (Fin 64 × Fin 32)) (s : State) : State :=
  s.setFb (ps.foldl (fun fb p => Framebuffer.toggle fb p.1 p.2) s.fb)

/-- The pixels of row `r` that are on. -/
def rowOn (r : Fin 32) (t : State) : List Nat :=
  ((List.finRange 64).filter (fun c => Framebuffer.get t.fb c r)).map Fin.val

/-- The given keys pressed. -/
def withKeys (ks : List Nat) (s : State) : State := { s with key := ks.foldl (fun k j => k.setIfInBounds j true) s.key }

/-- A stack holding the given return addresses. -/
def withStack (ws : List Word) (s : State) : State := ws.foldl State.push s

/-- The call stack full, SP = 16. -/
def fullStack : State := { State.reset with sp := 16 }

/-! ### Well-formedness: one ill-formed term for each check -/

/-- A row whose match sets a bit outside its mask is refused. -/
theorem test_wf_pattern_outside_mask : (OpcodeRow.plain 0x3001#16 0xF000#16).wellFormed = false := by decide

/-- The same in the low_field half of a row alone. -/
theorem test_wf_low_pattern_outside_mask :
    OpcodeRow.wellFormed { strictMatch := 0x5000#16, strictMask := 0xF00F#16, lowMatch := 0x5001#16, lowMask := 0xF000#16 } =
      false := by decide

/-- Two rows that both match 0x8004 are refused. -/
theorem test_wf_overlap : (OpcodeRow.plain 0x8000#16 0xF000#16).disjoint (.plain 0x8004#16 0xF00F#16) = false := by decide

/-- Two rows that overlap under low_field alone are refused: 00E0 and a row 0x0__0. -/
theorem test_wf_low_overlap :
    OpcodeRow.disjoint (opcodeRow .cls)
      { strictMatch := 0x0010#16, strictMask := 0xFFFF#16, lowMatch := 0x0010#16, lowMask := 0xFFFF#16 } = false := by decide

/-- A map with an overlapping pair is refused. -/
theorem test_wf_map : opcodeMapWellFormed [opcodeRow (.jp 0#12), .plain 0x1234#16 0xFFFF#16] = false := by decide

/-- The map of R105 passes. -/
theorem test_wf_opcode_map : opcodeMapWellFormed opcodeMap = true := by decide

/-! ### Decode: a word of every row, written out from its match in R105 -/

theorem test_decode_cls : decodeTableWord 16 0x00E0 = some .cls := by decide

theorem test_decode_ret : decodeTableWord 16 0x00EE = some .ret := by decide

theorem test_decode_jp : decodeTableWord 16 0x1234 = some (.jp 0x234#12) := by decide

theorem test_decode_call : decodeTableWord 16 0x2ABC = some (.call 0xABC#12) := by decide

theorem test_decode_seVxNn : decodeTableWord 16 0x3A42 = some (.seVxNn 0xA#4 0x42#8) := by decide

theorem test_decode_sneVxNn : decodeTableWord 16 0x4B17 = some (.sneVxNn 0xB#4 0x17#8) := by decide

theorem test_decode_seVxVy : decodeTableWord 16 0x5120 = some (.seVxVy 1#4 2#4) := by decide

theorem test_decode_ldVxNn : decodeTableWord 16 0x6A2B = some (.ldVxNn 0xA#4 0x2B#8) := by decide

theorem test_decode_addVxNn : decodeTableWord 16 0x7F01 = some (.addVxNn 0xF#4 0x01#8) := by decide

theorem test_decode_ldVxVy : decodeTableWord 16 0x8120 = some (.ldVxVy 1#4 2#4) := by decide

theorem test_decode_orVxVy : decodeTableWord 16 0x8AB1 = some (.orVxVy 0xA#4 0xB#4) := by decide

theorem test_decode_andVxVy : decodeTableWord 16 0x8AB2 = some (.andVxVy 0xA#4 0xB#4) := by decide

theorem test_decode_xorVxVy : decodeTableWord 16 0x8AB3 = some (.xorVxVy 0xA#4 0xB#4) := by decide

theorem test_decode_addVxVy : decodeTableWord 16 0x81F4 = some (.addVxVy 1#4 0xF#4) := by decide

theorem test_decode_subVxVy : decodeTableWord 16 0x8235 = some (.subVxVy 2#4 3#4) := by decide

theorem test_decode_shrVx : decodeTableWord 16 0x8AB6 = some (.shrVx 0xA#4 0xB#4) := by decide

theorem test_decode_subnVxVy : decodeTableWord 16 0x8237 = some (.subnVxVy 2#4 3#4) := by decide

theorem test_decode_shlVx : decodeTableWord 16 0x840E = some (.shlVx 4#4 0#4) := by decide

theorem test_decode_sneVxVy : decodeTableWord 16 0x9120 = some (.sneVxVy 1#4 2#4) := by decide

theorem test_decode_ldINnn : decodeTableWord 16 0xA2F0 = some (.ldINnn 0x2F0#12) := by decide

theorem test_decode_jpV0 : decodeTableWord 16 0xB300 = some (.jpV0 0x300#12) := by decide

theorem test_decode_rndVxNn : decodeTableWord 16 0xC30F = some (.rndVxNn 3#4 0x0F#8) := by decide

theorem test_decode_drw : decodeTableWord 16 0xD125 = some (.drw 1#4 2#4 5#4) := by decide

theorem test_decode_skp : decodeTableWord 16 0xE19E = some (.skp 1#4) := by decide

theorem test_decode_sknp : decodeTableWord 16 0xE1A1 = some (.sknp 1#4) := by decide

theorem test_decode_ldVxDt : decodeTableWord 16 0xF107 = some (.ldVxDt 1#4) := by decide

theorem test_decode_ldVxK : decodeTableWord 16 0xF20A = some (.ldVxK 2#4) := by decide

theorem test_decode_ldDtVx : decodeTableWord 16 0xF015 = some (.ldDtVx 0#4) := by decide

theorem test_decode_ldStVx : decodeTableWord 16 0xFA18 = some (.ldStVx 0xA#4) := by decide

theorem test_decode_addIVx : decodeTableWord 16 0xF31E = some (.addIVx 3#4) := by decide

theorem test_decode_ldFVx : decodeTableWord 16 0xF029 = some (.ldFVx 0#4) := by decide

theorem test_decode_ldBVx : decodeTableWord 16 0xF533 = some (.ldBVx 5#4) := by decide

theorem test_decode_ldMemVx : decodeTableWord 16 0xF155 = some (.ldMemVx 1#4) := by decide

theorem test_decode_ldVxMem : decodeTableWord 16 0xFF65 = some (.ldVxMem 0xF#4) := by decide

/-- C4's examples, R97 and R101: words of every further-decoded family that are UNKNOWN. -/
theorem test_decode_unknown :
    [0x0000#16, 0x0120#16, 0x012E#16, 0x5121#16, 0x9121#16, 0x8AB8#16, 0x8ABF#16, 0xE19F#16, 0xE000#16, 0xF0FF#16,
      0xF008#16].all (fun w => (decodeWord .strict w).isNone) = true := by decide

/-- V-0UNK-3, V-0UNK-4, V-SER-4: the same words under low_field. -/
theorem test_decode_low_field :
    [decodeWord .lowField 0x0120#16, decodeWord .lowField 0x012E#16, decodeWord .lowField 0x5121#16,
      decodeWord .lowField 0x9121#16, decodeWord .lowField 0x0123#16] =
    [some .cls, some .ret, some (.seVxVy 1#4 2#4), some (.sneVxVy 1#4 2#4), none] := by decide

/-- A single byte is no instruction (R92). -/
theorem test_decode_truncated : decode .strict [0x60#8] = .error .truncated := by rfl

/-- Rejection by name, and the bytes after an instruction are handed back. -/
theorem test_decode_bytes : decode .strict [0x12#8, 0x34#8, 0x56#8] = .ok (.jp 0x234#12, [0x56#8]) ∧
    decode .strict [0x80#8, 0x08#8] = .error (.unknown 0x8008#16) := ⟨rfl, rfl⟩

/-- R106's syntax; the form of DRW's n is shown on a digit below 10, where log 17's choice does not matter. -/
theorem test_asm : asmText (.drw 1#4 2#4 5#4) = "DRW V1, V2, 5" ∧ asmText (.ldINnn 0x2F0#12) = "LD I, 0x2F0" ∧
    asmText (.ldMemVx 0xA#4) = "LD [I], VA" := by decide

/-! ### One step of each instruction -/

/-- V-CLS-1: FB set at (0,0) and (63,31). -/
theorem test_step_cls : after (fun t => (rowOn 0 t, rowOn 31 t, t.pc)) (runWord 0x00E0 (withPixels [(0, 0), (63, 31)] State.reset)) =
      some ([], [], 0x202#16) := by decide

/-- V-RET-1. -/
theorem test_step_ret : after (fun t => (t.sp.val, t.pc, t.stackAt 0)) (runWord 0x00EE ((withStack [0x204#16] State.reset).jumpTo 0x210#16)) =
      some (0, 0x206#16, 0x204#16) := by decide

/-- V-RET-2, V-TICK-3. -/
theorem test_step_ret_empty : after faultOf (runWord 0x00EE { State.reset with dt := 5#8 }) = some (faultAt200 .stackUnderflow 0x00EE#16 0x200) := by decide

/-- V-JP-2: an odd target is legal. -/
theorem test_step_jp : after State.pc (runWord 0x1203 State.reset) = some 0x203#16 := by decide

/-- V-CALL-2: the 16th entry fills the stack. -/
theorem test_step_call : after (fun t => (t.sp.val, t.stackAt 15, t.pc)) (runWord 0x2300 { State.reset with sp := 15 }) =
      some (16, 0x200#16, 0x300#16) := by decide

/-- V-CALL-3. -/
theorem test_step_call_full : after faultOf (runWord 0x2300 fullStack) = some (faultAt200 .stackOverflow 0x2300#16 0x200) := by decide

/-- V-SE-1. -/
theorem test_step_se_nn : after State.pc (runWord 0x3A42 (withRegs [(0xA#4, 0x42#8)])) = some 0x204#16 := by decide

/-- V-SE-2. -/
theorem test_step_se_nn_not : after State.pc (runWord 0x3A42 (withRegs [(0xA#4, 0x43#8)])) = some 0x202#16 := by decide

/-- V-SNE-1. -/
theorem test_step_sne_nn : after State.pc (runWord 0x4A42 (withRegs [(0xA#4, 0x43#8)])) = some 0x204#16 := by decide

/-- V-SNE-2. -/
theorem test_step_sne_nn_not : after State.pc (runWord 0x4A42 (withRegs [(0xA#4, 0x42#8)])) = some 0x202#16 := by decide

/-- V-SER-2. -/
theorem test_step_se_vy : after State.pc (runWord 0x5120 (withRegs [(1#4, 7#8), (2#4, 8#8)])) = some 0x202#16 := by decide

/-- V-SER-4. -/
theorem test_step_se_vy_low_field : after State.pc (runWord 0x5121
      { withRegs [(1#4, 7#8), (2#4, 7#8)] with cfg := { defaultParams with decodeMode := .lowField } }) = some 0x204#16 := by decide

/-- V-SNER-1. -/
theorem test_step_sne_vy : after State.pc (runWord 0x9120 (withRegs [(1#4, 7#8), (2#4, 8#8)])) = some 0x204#16 := by decide

/-- V-SKIP-END. -/
theorem test_step_skip_end : after State.pc (runWord 0x3000 (State.reset.jumpTo 0xFFC#16)) = some 0x1000#16 := by decide

/-- V-LD-1. -/
theorem test_step_ld_nn : after (fun t => (t.getV 0xA#4, t.pc)) (runWord 0x6A5C State.reset) = some (0x5C#8, 0x202#16) := by decide

/-- V-ADD-1: wraps, no carry. -/
theorem test_step_add_nn : after (fun t => (t.getV 0xA#4, t.getV 0xF#4)) (runWord 0x7A01 (withRegs [(0xA#4, 0xFF#8)])) = some (0#8, 0#8) := by decide

/-- V-ADD-2. -/
theorem test_step_add_nn_vf : after (State.getV · 0xF#4) (runWord 0x7F01 (withRegs [(0xF#4, 1#8)])) = some 2#8 := by decide

/-- V-LDR-1. -/
theorem test_step_ld_vy : after (State.getV · 0xA#4) (runWord 0x8AB0 (withRegs [(0xB#4, 0x33#8)])) = some 0x33#8 := by decide

/-- V-OR-1: VF unchanged. -/
theorem test_step_or : after (fun t => (t.getV 0xA#4, t.getV 0xF#4)) (runWord 0x8AB1 (withRegs [(0xA#4, 0xF0#8), (0xB#4, 0x0F#8), (0xF#4, 1#8)])) =
      some (0xFF#8, 1#8) := by decide

/-- V-AND-1. -/
theorem test_step_and : after (fun t => (t.getV 0xA#4, t.getV 0xF#4)) (runWord 0x8AB2 (withRegs [(0xA#4, 0xF0#8), (0xB#4, 0x3C#8), (0xF#4, 1#8)])) =
      some (0x30#8, 1#8) := by decide

/-- V-XOR-1. -/
theorem test_step_xor : after (State.getV · 0xA#4) (runWord 0x8AB3 (withRegs [(0xA#4, 0xFF#8), (0xB#4, 0x0F#8)])) = some 0xF0#8 := by decide

/-- V-ADDR-3: 256 gives carry and result 0. -/
theorem test_step_add_vy : after (fun t => (t.getV 0xA#4, t.getV 0xF#4)) (runWord 0x8AB4 (withRegs [(0xA#4, 0x80#8), (0xB#4, 0x80#8)])) =
      some (0#8, 1#8) := by decide

/-- V-ADDR-6. -/
theorem test_step_add_vf_result_last : after (State.getV · 0xF#4) (runWord 0x8F14
      { withRegs [(0xF#4, 5#8), (1#4, 1#8)] with cfg := { defaultParams with vfOrder := .resultLast } }) = some 6#8 := by decide

/-- V-SUB-1: borrow. -/
theorem test_step_sub : after (fun t => (t.getV 0xA#4, t.getV 0xF#4)) (runWord 0x8AB5 (withRegs [(0xA#4, 5#8), (0xB#4, 7#8)])) =
      some (0xFE#8, 0#8) := by decide

/-- V-SUB-3. -/
theorem test_step_sub_equal : after (fun t => (t.getV 0xA#4, t.getV 0xF#4)) (runWord 0x8AB5 (withRegs [(0xA#4, 7#8), (0xB#4, 7#8)])) =
      some (0#8, 1#8) := by decide

/-- V-SHR-3: Vy ignored. -/
theorem test_step_shr : after (fun t => (t.getV 0xA#4, t.getV 0xF#4)) (runWord 0x8AB6 (withRegs [(0xA#4, 2#8), (0xB#4, 0xFF#8)])) =
      some (1#8, 0#8) := by decide

/-- V-SHR-4. -/
theorem test_step_shr_vf : after (State.getV · 0xF#4) (runWord 0x8F06 (withRegs [(0xF#4, 3#8)])) = some 1#8 := by decide

/-- V-SUBN-2: borrow. -/
theorem test_step_subn : after (fun t => (t.getV 0xA#4, t.getV 0xF#4)) (runWord 0x8AB7 (withRegs [(0xA#4, 7#8), (0xB#4, 5#8)])) =
      some (0xFE#8, 0#8) := by decide

/-- V-SUBN-1. -/
theorem test_step_subn_no_borrow : after (fun t => (t.getV 0xA#4, t.getV 0xF#4)) (runWord 0x8AB7 (withRegs [(0xA#4, 5#8), (0xB#4, 7#8)])) =
      some (2#8, 1#8) := by decide

/-- V-SHL-1. -/
theorem test_step_shl : after (fun t => (t.getV 0xA#4, t.getV 0xF#4)) (runWord 0x8A0E (withRegs [(0xA#4, 0x81#8)])) = some (2#8, 1#8) := by decide

/-- V-SHL-4. -/
theorem test_step_shl_vf_result_last : after (State.getV · 0xF#4) (runWord 0x8F0E
      { withRegs [(0xF#4, 0x80#8)] with cfg := { defaultParams with vfOrder := .resultLast } }) = some 0#8 := by decide

/-- V-LDI-1. -/
theorem test_step_ld_i : after State.i (runWord 0xAFFF State.reset) = some 0xFFF#16 := by decide

/-- V-JPV0-2: 0x10FE, not reduced. -/
theorem test_step_jp_v0 : after State.pc (runWord 0xBFFF (withRegs [(0#4, 0xFF#8)])) = some 0x10FE#16 := by decide

/-- V-RND-1. -/
theorem test_step_rnd : after (State.getV · 3#4) (exec (.rndVxNn 3#4 0x0F#8) { State.reset with rnd := 0xA7#8 }) = some 7#8 := by decide

/-- V-DRW-3: one of two pixels collides. -/
theorem test_step_drw_collision : after (fun t => (t.getV 0xF#4, rowOn 0 t)) (runWord 0xD121 (withPixels [(1, 0)] (at300 [0xC0#8] State.reset))) =
      some (1#8, [0]) := by decide

/-- V-DRW-5: wraps right and bottom. -/
theorem test_step_drw_wrap : after (fun t => (t.getV 0xF#4, rowOn 31 t, rowOn 0 t))
      (runWord 0xD122 (at300 [0xFF#8, 0x81#8] (withRegs [(1#4, 0x3C#8), (2#4, 0x1F#8)]))) =
      some (0#8, [0, 1, 2, 3, 60, 61, 62, 63], [3, 60]) := by decide

/-- V-SKP-1. -/
theorem test_step_skp : after State.pc (runWord 0xE19E (withKeys [5] (withRegs [(1#4, 5#8)]))) = some 0x204#16 := by decide

/-- V-SKP-3. -/
theorem test_step_skp_index : after faultOf (runWord 0xE19E (withKeys [0] (withRegs [(1#4, 0x10#8)]))) = some (faultAt200 .keyIndex 0xE19E#16 0x10) := by decide

/-- V-SKNP-2. -/
theorem test_step_sknp : after State.pc (runWord 0xE1A1 (withKeys [5] (withRegs [(1#4, 5#8)]))) = some 0x202#16 := by decide

/-- V-SKNP-3. -/
theorem test_step_sknp_index : after faultOf (runWord 0xE1A1 (withRegs [(1#4, 0xFF#8)])) = some (faultAt200 .keyIndex 0xE1A1#16 0xFF) := by decide

/-- V-LDVDT-1. -/
theorem test_step_ld_vx_dt : after (fun t => (t.getV 1#4, t.dt)) (runWord 0xF107 { State.reset with dt := 3#8 }) = some (3#8, 2#8) := by decide

/-- V-LDK-3: timers tick while waiting. -/
theorem test_step_ld_k_wait : after (fun t => (t.pc, t.awaitKey, t.dt, t.st)) (runWord 0xF20A { State.reset with pc := 0x206#16, dt := 4#8, st := 1#8 }) =
      some (0x206#16, true, 3#8, 0#8) := by decide

/-- V-LDK-2: the lowest key. -/
theorem test_step_ld_k : after (fun t => (t.getV 2#4, t.pc, t.awaitKey)) (runWord 0xF20A (withKeys [5, 9] { State.reset with pc := 0x206#16, awaitKey := true })) =
      some (5#8, 0x208#16, false) := by decide

/-- V-LDDT-1. -/
theorem test_step_ld_dt : after State.dt (runWord 0xF015 (withRegs [(0#4, 3#8)])) = some 2#8 := by decide

/-- V-LDDT-2. -/
theorem test_step_ld_dt_zero : after State.dt (runWord 0xF015 { State.reset with dt := 9#8 }) = some 0#8 := by decide

/-- V-LDST-2. -/
theorem test_step_ld_st : after State.st (runWord 0xF018 (withRegs [(0#4, 0xFF#8)])) = some 254#8 := by decide

/-- V-ADDI-2: above 0xFFF is legal. -/
theorem test_step_add_i : after (fun t => (t.i, t.getV 0xF#4)) (runWord 0xF31E ((withRegs [(3#4, 1#8)]).setI 0xFFF#16)) = some (0x1000#16, 0#8) := by decide

/-- V-ADDI-3. -/
theorem test_step_add_i_overflow : after faultOf (runWord 0xF31E ((withRegs [(3#4, 1#8)]).setI 0xFFFF#16)) = some (faultAt200 .indexOverflow 0xF31E#16 0x10000) := by decide

/-- V-LDF-3: no mask. -/
theorem test_step_ld_f : after State.i (runWord 0xF029 (withRegs [(0#4, 0x12#8)])) = some 0x05A#16 := by decide

/-- V-LDF-4. -/
theorem test_step_ld_f_mask : after State.i (runWord 0xF029
      { withRegs [(0#4, 0x12#8)] with cfg := { defaultParams with fontDigitMask := .lowNibble } }) = some 0x00A#16 := by decide

/-- V-BCD-1. -/
theorem test_step_bcd : after (fun t => Memory.readBlock t.mem 0x300 3) (runWord 0xF033 ((withRegs [(0#4, 0xEA#8)]).setI 0x300#16)) =
      some [2#8, 3#8, 4#8] := by decide

/-- V-BCD-5. -/
theorem test_step_bcd_oob : after faultOf (runWord 0xF033 ((withRegs [(0#4, 0x64#8)]).setI 0xFFE#16)) = some (faultAt200 .memOob 0xF033#16 0x1000) := by decide

/-- V-ST-1. -/
theorem test_step_ld_mem : after (fun t => (Memory.readBlock t.mem 0x300 3, t.i)) (runWord 0xF155 ((withRegs [(0#4, 1#8), (1#4, 2#8), (2#4, 9#8)]).setI 0x300#16)) =
      some ([1#8, 2#8, 0#8], 0x302#16) := by decide

/-- V-ST-3. -/
theorem test_step_ld_mem_top : after (fun t => (t.i, Memory.read t.mem 0xFF0, Memory.read t.mem 0xFFF))
      (runWord 0xFF55 ((withRegs [(0#4, 0x11#8), (0xF#4, 0xEE#8)]).setI 0xFF0#16)) = some (0x1000#16, 0x11#8, 0xEE#8) := by decide

/-- V-LDM-1. -/
theorem test_step_ld_regs : after (fun t => (t.getV 0#4, t.getV 1#4, t.getV 2#4, t.i)) (runWord 0xF265 (at300 [2#8, 3#8, 4#8, 5#8] State.reset)) =
      some (2#8, 3#8, 4#8, 0x303#16) := by decide

/-- V-LDM-3. -/
theorem test_step_ld_regs_oob : after faultOf (runWord 0xF165 (State.reset.setI 0xFFF#16)) = some (faultAt200 .memOob 0xF165#16 0x1000) := by decide

/-! ### The cycle -/

/-- V-FETCH-1: the last fetchable word. -/
theorem test_fetch_last : after (fun t => (t.getV 0#4, t.pc)) (runWord 0x6001 (State.reset.jumpTo 0xFFE#16)) =
    some (1#8, 0x1000#16) := by decide

/-- V-FETCH-2. -/
theorem test_fetch_oob : after faultOf (step (State.reset.jumpTo 0xFFF#16)) =
    some (true, some { code := .fetchOob, pc := 0xFFF#16, opcode := none, addr := 0xFFF }) := by decide

/-- V-FETCH-4: an odd `pc` is fetched like an even one. -/
theorem test_fetch_odd : after (fun t => (t.getV 0#4, t.pc)) (runWord 0x6001 (State.reset.jumpTo 0x201#16)) =
    some (1#8, 0x203#16) := by decide

/-- V-FETCH-5. -/
theorem test_fetch_odd_fault : after faultOf
    (runWord 0x6001 { State.reset with pc := 0x201#16, cfg := { defaultParams with oddPc := .fault } }) =
      some (true, some { code := .oddPc, pc := 0x201#16, opcode := none, addr := 0x201 }) := by decide

/-- E11: big-endian. -/
theorem test_fetch_big_endian :
    (State.reset.setMem (Memory.writeBlock [] 0x200 [0xA2#8, 0xF0#8])).fetchWord = 0xA2F0#16 := by decide

/-- V-TICK-2: an UNKNOWN cycle ticks, emits its event and advances 2. -/
theorem test_unknown_cycle : after (fun t => (t.dt, t.events, t.pc, t.halted)) (runWord 0x8AB8 { State.reset with dt := 1#8 }) =
    some (0#8, [{ pc := 0x200#16, opcode := 0x8AB8#16 }], 0x202#16, false) := by decide

/-- R90 step 1: a halted core has no step. -/
theorem test_halted : step { State.reset with halted := true } = .fault .halted := by rfl

/-! ### The host operations -/

/-- V-HOST-1: from a state with registers, events and a fault, with a key pressed and a pixel on. -/
theorem test_host_reset :
    State.initializeCore (withKeys [3] (withPixels [(5, 5)] { withRegs [(1#4, 2#8)] with halted := true, i := 0#16 })) =
      withKeys [3] (withPixels [(5, 5)] State.reset) := by decide

/-- V-HOST-3. -/
theorem test_host_load : after (fun t => (Memory.readBlock t.mem 0x200 2, t.pc, t.getV 3#4))
    (State.loadProgram ((withRegs [(3#4, 0x44#8)]).jumpTo 0x20A#16) [0xAB#8]) =
      some ([0xAB#8, 0#8], 0x200#16, 0x44#8) := by decide

/-- V-HOST-5, with the length alone. -/
theorem test_host_load_overflow : after faultOf (State.loadProgram State.reset (List.replicate 3585 0#8)) =
    some (true, some { code := .loadOverflow, pc := 0x200#16, opcode := none, addr := 0x1000 }) := by
  rw [State.loadProgram, if_neg (by decide), if_pos (by rw [List.length_replicate]; decide)]
  rfl

/-- V-HOST-7. -/
theorem test_host_load_halted : State.loadProgram { State.reset with halted := true } [] = .refused .loadWhileHalted := by rfl

/-- V-HOST-8 and V-HOST-9. -/
theorem test_host_key : State.setKeyState State.reset 16 true = .refused .keyOutOfRange ∧
    after (fun t => (t.isPressed 5, t.isPressed 4)) (State.setKeyState State.reset 5 true) = some (true, false) :=
  ⟨rfl, by decide⟩

/-! ### Witnesses: for every obligation with hypotheses a state and operands that meet them, and each clause at its
boundary -/

/-- Reset with a word placed at 0x200. -/
def holding (w : Nat) : State := State.reset.withFetchWord 16 w

/-- Reset with other values of the parameters. -/
def withParams (p : Params) (s : State) : State := { s with cfg := p }

/-- The step completes its cycle and the next state has a property. -/
def completes (s : State) (p : State → Prop) : Prop := ∃ t, step s = .next t ∧ t.halted = false ∧ p t

/-- Executing leads to a next state that halts or not, as given. -/
def halts (b : Bool) (i : Instr) (s : State) : Bool := after State.halted (exec i s) == some b

/-- O2, O3: words that decode, one of them under low_field alone, and a word that does not. -/
theorem witness_decode : decodeWord .strict 0xD125#16 = some (.drw 1#4 2#4 5#4) ∧
    decodeWord .lowField 0x0FF0#16 = some .cls ∧ decodeWord .strict 0x0FF0#16 = none ∧
    (∀ row ∈ opcodeMap, row.accepts .strict 0x0FF0#16 = false) := by decide

/-- O5, O12, O14, O18 to O21: a completed cycle, its decoded instruction none of the ones excluded. -/
theorem witness_completed : completes (holding 0x6001) (fun t => t.opc = 0x6001#16) ∧
    (holding 0x6001).decoded = some (.ldVxNn 0#4 1#8) := ⟨⟨_, rfl, rfl, by decide⟩, by decide⟩

/-- O6: the last fetchable `pc`, with an instruction that completes and with one that faults. -/
theorem witness_running : ((State.reset.jumpTo 0xFFE#16).withFetchWord 16 0x6001).running ∧
    ((State.reset.jumpTo 0xFFE#16).withFetchWord 16 0x6001).fetchable ∧
    ((State.reset.jumpTo 0xFFE#16).withFetchWord 16 0x6001).decoded = some (.ldVxNn 0#4 1#8) ∧
    (holding 0x00EE).running ∧ (holding 0x00EE).fetchable ∧ (holding 0x00EE).decoded = some .ret :=
  ⟨rfl, ⟨by decide, by decide⟩, by decide, rfl, ⟨by decide, by decide⟩, by decide⟩

/-- O7: 0xFFF and the largest `pc` a run reaches, and 0xFFE. -/
theorem witness_fetch_end : (State.reset.jumpTo 0xFFF#16).running ∧ (State.reset.jumpTo 0xFFF#16).pc.toNat ≥ 0xFFF ∧
    (State.reset.jumpTo 0x10FE#16).pc.toNat ≥ 0xFFF ∧ (State.reset.jumpTo 0xFFE#16).running ∧
    (State.reset.jumpTo 0xFFE#16).pc = 0xFFE#16 := ⟨rfl, by decide, by decide, rfl, rfl⟩

/-- O8: the last odd `pc` that passes the first check, under each value of `ODD_PC`. -/
theorem witness_odd_pc : (State.reset.jumpTo 0xFFD#16).running ∧ (State.reset.jumpTo 0xFFD#16).pc.toNat % 2 = 1 ∧
    (State.reset.jumpTo 0xFFD#16).pc.toNat < 0xFFF ∧ (State.reset.jumpTo 0xFFD#16).cfg.oddPc = .fetch ∧
    (withParams { defaultParams with oddPc := .fault } (State.reset.jumpTo 0xFFD#16)).cfg.oddPc = .fault := by
  refine ⟨rfl, ?_⟩; decide

/-- O9. -/
theorem witness_halted : ({ State.reset with halted := true } : State).halted = true := rfl

/-- O10, O11: an UNKNOWN word of family 8, with k = 8 and with k = F. -/
theorem witness_unknown : (holding 0x8AB8).running ∧ (holding 0x8AB8).fetchable ∧ (holding 0x8AB8).decoded = none ∧
    (holding 0x8AB8).fetchWord = encodeXyn 8#4 0xA#4 0xB#4 8#4 ∧
    (holding 0x8ABF).fetchWord = encodeXyn 8#4 0xA#4 0xB#4 0xF#4 :=
  ⟨rfl, ⟨by decide, by decide⟩, by decide, by decide, by decide⟩

/-- O12: timers at 0 and 1, and an excluded instruction. -/
theorem witness_timers : completes { holding 0x6001 with dt := 0#8, st := 1#8 } (fun t => t.dt = 0#8 ∧ t.st = 0#8) ∧
    (holding 0xF015).decoded = some (.ldDtVx 0#4) ∧ (holding 0xF018).decoded = some (.ldStVx 0#4) :=
  ⟨⟨_, rfl, rfl, by decide⟩, by decide, by decide⟩

/-- O13: two cycles of a jump to itself, with the timer at 1 (the source's E10 in small). -/
theorem witness_safe_run :
    ∃ t, safeRun (fun d => ∀ x, d ≠ some (.ldDtVx x)) 2 { holding 0x1200 with dt := 1#8 } t ∧ t.dt = 0#8 := by
  refine ⟨_, ⟨_, ?_, rfl, rfl, _, ?_, rfl, rfl, rfl⟩, by decide⟩
  · rw [show State.decoded { holding 0x1200 with dt := 1#8 } = some (.jp 0x200#12) by decide]
    intro x h; cases h
  · rw [show State.decoded _ = some (.jp 0x200#12) by decide]
    intro x h; cases h

/-- O14: the waiting cycle and one that finds the highest key. -/
theorem witness_await : completes (holding 0xF20A) (fun t => t.awaitKey = true) ∧
    completes (withKeys [15] (holding 0xF20A)) (fun t => t.awaitKey = false ∧ t.getV 2#4 = 15#8) :=
  ⟨⟨_, rfl, rfl, by decide⟩, ⟨_, rfl, rfl, by decide⟩⟩

/-- O15: the invariant in a state with a full stack of legal return addresses and the largest `pc`. -/
theorem witness_inv : State.Inv { fullStack with pc := 0x10FE#16, stack := Vector.replicate 16 0xFFE#16 } :=
  ⟨by decide, rfl, fun _ => ⟨by decide, by decide⟩⟩

/-- O15: a step from a state with the invariant, to a completed cycle and to a fatal fault. -/
theorem witness_inv_step : (holding 0x2300).Inv ∧ (∃ t, step (holding 0x2300) = .next t) ∧ (holding 0x00EE).Inv ∧
    ∃ t, step (holding 0x00EE) = .next t :=
  ⟨⟨by decide, rfl, fun _ => ⟨by decide, by decide⟩⟩, ⟨_, rfl⟩, ⟨by decide, rfl, fun _ => ⟨by decide, by decide⟩⟩,
    ⟨_, rfl⟩⟩

/-- O17: every host move answers a next state in the reset state, which has the invariant. -/
theorem witness_host_moves : State.reset.Inv ∧ (∃ t, hostMove .reset State.reset = .next t) ∧
    (∃ t, hostMove (.loadProgram [0x12#8, 0x00#8]) State.reset = .next t) ∧
    (∃ t, hostMove .stepCycle State.reset = .next t) ∧ (∃ t, hostMove (.setKeyState 15 true) State.reset = .next t) ∧
    ∃ t, hostMove .present State.reset = .next t :=
  ⟨⟨by decide, rfl, fun _ => ⟨by decide, by decide⟩⟩, ⟨_, rfl⟩, ⟨_, rfl⟩, ⟨_, rfl⟩, ⟨_, rfl⟩, ⟨_, rfl⟩⟩

/-- O20: each of the five instructions changes I in a completed cycle. -/
theorem witness_index_writers : completes (holding 0xA123) (fun t => t.i ≠ State.reset.i) ∧
    completes ((withRegs [(3#4, 1#8)]).withFetchWord 16 0xF31E) (fun t => t.i ≠ State.reset.i) ∧
    completes (holding 0xF029) (fun t => t.i ≠ State.reset.i) ∧
    completes ((State.reset.setI 0x300#16).withFetchWord 16 0xF055) (fun t => t.i ≠ 0x300#16) ∧
    completes (holding 0xF065) (fun t => t.i ≠ State.reset.i) :=
  ⟨⟨_, rfl, rfl, by decide⟩, ⟨_, rfl, rfl, by decide⟩, ⟨_, rfl, rfl, by decide⟩, ⟨_, rfl, rfl, by decide⟩,
    ⟨_, rfl, rfl, by decide⟩⟩

/-- O21: both stores change a byte. -/
theorem witness_memory_writers :
    completes (((withRegs [(0#4, 9#8)]).setI 0x300#16).withFetchWord 16 0xF033)
      (fun t => Memory.read t.mem 0x302 ≠ 0#8) ∧
    completes (((withRegs [(0#4, 9#8)]).setI 0x300#16).withFetchWord 16 0xF055)
      (fun t => Memory.read t.mem 0x300 ≠ 0#8) := ⟨⟨_, rfl, rfl, by decide⟩, ⟨_, rfl, rfl, by decide⟩⟩

/-- O22: a completed execute that changes V[x] and VF. -/
theorem witness_register_writers : ∃ t, exec (.addVxVy 1#4 2#4) (withRegs [(1#4, 0x80#8), (2#4, 0x81#8)]) = .next t ∧
    t.halted = false ∧ t.getV 1#4 = 1#8 ∧ t.getV 0xF#4 = 1#8 := ⟨_, rfl, by decide⟩

/-- O23: each fault condition on both sides of its boundary. -/
theorem witness_fault_stack : halts true .ret State.reset = true ∧ halts false .ret { State.reset with sp := 1 } = true ∧
    halts false (.call 0#12) { State.reset with sp := 15 } = true ∧ halts true (.call 0#12) fullStack = true := by decide

theorem witness_fault_memory :
    halts false (.drw 0#4 0#4 0#4) (State.reset.setI 0xFFFF#16) = true ∧
    halts false (.drw 0#4 0#4 1#4) (State.reset.setI 0xFFF#16) = true ∧
    halts true (.drw 0#4 0#4 2#4) (State.reset.setI 0xFFF#16) = true ∧
    halts false (.ldBVx 0#4) (State.reset.setI 0xFFD#16) = true ∧
    halts true (.ldBVx 0#4) (State.reset.setI 0xFFE#16) = true ∧
    halts false (.ldMemVx 1#4) (State.reset.setI 0xFFE#16) = true ∧
    halts true (.ldMemVx 1#4) (State.reset.setI 0xFFF#16) = true ∧
    halts false (.ldVxMem 1#4) (State.reset.setI 0xFFE#16) = true ∧
    halts true (.ldVxMem 1#4) (State.reset.setI 0xFFF#16) = true := by decide

theorem witness_fault_key_and_index :
    halts false (.skp 0#4) (withRegs [(0#4, 15#8)]) = true ∧ halts true (.skp 0#4) (withRegs [(0#4, 16#8)]) = true ∧
    halts false (.sknp 0#4) (withRegs [(0#4, 15#8)]) = true ∧ halts true (.sknp 0#4) (withRegs [(0#4, 16#8)]) = true ∧
    halts false (.addIVx 0#4) ((withRegs [(0#4, 1#8)]).setI 0xFFFE#16) = true ∧
    halts true (.addIVx 0#4) ((withRegs [(0#4, 1#8)]).setI 0xFFFF#16) = true ∧
    halts false (.addIVx 0#4)
      (withParams { defaultParams with iOverflow := .wrap } ((withRegs [(0#4, 1#8)]).setI 0xFFFF#16)) = true := by decide

/-- O24: a step that halts, in the fetch and in an instruction. -/
theorem witness_halting_step : (∃ t, step (State.reset.jumpTo 0x1000#16) = .next t ∧ t.halted = true) ∧
    ∃ t, step (holding 0x00EE) = .next t ∧ t.halted = true := ⟨⟨_, rfl, rfl⟩, ⟨_, rfl, rfl⟩⟩

/-- O59: an instruction and a load_program that halt a running core. -/
theorem witness_halting_operations : State.reset.running ∧ (∃ t, exec .ret State.reset = .next t ∧ t.halted = true) ∧
    ∃ t, State.loadProgram State.reset (List.replicate 3585 0#8) = .next t ∧ t.halted = true :=
  ⟨rfl, ⟨_, rfl, rfl⟩, ⟨_, by rw [State.loadProgram, if_neg (by decide), if_pos (by rw [List.length_replicate]; decide)],
    rfl⟩⟩

/-- O25, O26: a step in an UNKNOWN cycle and in another. -/
theorem witness_events : (holding 0x0000).fetchable ∧ (holding 0x0000).decoded = none ∧
    (∃ t, step (holding 0x0000) = .next t) ∧ (holding 0x00E0).decoded ≠ none ∧ ∃ t, step (holding 0x00E0) = .next t :=
  ⟨⟨by decide, by decide⟩, by decide, ⟨_, rfl⟩, by decide, ⟨_, rfl⟩⟩

/-- O27: the even premises with an indexed jump, a call and a return. -/
theorem witness_even_pc : (withStack [0x204#16] State.reset).pc.toNat % 2 = 0 ∧
    (∀ k < (withStack [0x204#16] State.reset).sp.val, ((withStack [0x204#16] State.reset).stackAt k).toNat % 2 = 0) ∧
    (0x301#12).toNat + ((withRegs [(0#4, 1#8)]).getV 0#4).toNat = 0x302 ∧
    (∃ t, exec .ret (withStack [0x204#16] State.reset) = .next t ∧ t.halted = false) ∧
    (∃ t, exec (.call 0x300#12) State.reset = .next t ∧ t.halted = false) ∧
    ∃ t, exec (.jpV0 0x301#12) (withRegs [(0#4, 1#8)]) = .next t ∧ t.halted = false :=
  ⟨by decide, by decide, by decide, ⟨_, rfl, rfl⟩, ⟨_, rfl, rfl⟩, ⟨_, rfl, rfl⟩⟩

/-- O28 to O41, O45, O46, O48: words that meet the mask and match of a decode clause. -/
theorem witness_decodes_by : 0x00E0#16 &&& 0xFFFF#16 = 0x00E0#16 ∧ 0x2ABC#16 &&& 0xF000#16 = 0x2000#16 ∧
    0x5121#16 &&& 0xF000#16 = 0x5000#16 ∧ 0x8AB4#16 &&& 0xF00F#16 = 0x8004#16 ∧
    0xE19E#16 &&& 0xF0FF#16 = 0xE09E#16 := by decide

/-- O29, O31, O32: the stack with one entry, empty, with one free slot and full. -/
theorem witness_stack_levels : 0 < (withStack [0x204#16] State.reset).sp.val ∧ State.reset.sp.val = 0 ∧
    ({ State.reset with sp := 15 } : State).sp.val < 16 ∧ fullStack.sp.val = 16 := by decide

/-- O32: after a call, the same state has the call's stack pointer and entry. -/
theorem witness_call_return : ∃ t, exec (.call 0x300#12) State.reset = .next t ∧ t.sp.val = 1 ∧
    t.stackAt 0 = 0x200#16 := ⟨_, rfl, by decide⟩

/-- O37 to O39: V[x] with x = 0xF under both values of `VF_ORDER` (x = 1 is in witness_register_writers). -/
theorem witness_vf_order : after (State.getV · 0xF#4) (exec (.subVxVy 0xF#4 1#4) (withRegs [(0xF#4, 5#8), (1#4, 3#8)])) =
      some 1#8 ∧
    after (State.getV · 0xF#4) (exec (.subVxVy 0xF#4 1#4)
      (withParams { defaultParams with vfOrder := .resultLast } (withRegs [(0xF#4, 5#8), (1#4, 3#8)]))) = some 2#8 := by
  decide

/-- O41, O46, O47: the step clauses' decoded instructions. -/
theorem witness_step_clauses : (holding 0xC30F).running ∧ (holding 0xC30F).fetchable ∧
    (holding 0xC30F).decoded = some (.rndVxNn 3#4 0x0F#8) ∧ (holding 0xF107).fetchable ∧
    (holding 0xF107).decoded = some (.ldVxDt 1#4) ∧ (holding 0xF20A).fetchable ∧
    (holding 0xF20A).decoded = some (.ldVxK 2#4) ∧ ∀ k < 16, (holding 0xF20A).isPressed k = false :=
  ⟨rfl, ⟨by decide, by decide⟩, by decide, ⟨by decide, by decide⟩, by decide, ⟨by decide, by decide⟩, by decide,
    by decide⟩

/-- O42, O43: an empty sprite at any I, and a sprite that ends at 0xFFF. -/
theorem witness_sprite_fits : (0#4 = 0#4 ∨ (State.reset.setI 0xFFFF#16).i.toNat + (0#4).toNat - 1 ≤ 0xFFF) ∧
    (State.reset.setI 0xFF1#16).i.toNat + (0xF#4).toNat - 1 ≤ 0xFFF ∧ (1#4 : Nibble) ≠ 0xF#4 := by decide

/-- O42, O43: the leftmost bit covers the pixel at V[x], V[y], off and on; the wrapped bit of V-DRW-5 its pixel. -/
theorem witness_sprite_covers : Statements.spriteCovers (at300 [0x80#8] State.reset) 0#4 0#4 1#4 0 0 ∧
    Framebuffer.get (at300 [0x80#8] State.reset).fb 0 0 = false ∧
    Framebuffer.get (withPixels [(0, 0)] (at300 [0x80#8] State.reset)).fb 0 0 = true ∧
    Statements.spriteCovers (at300 [0xFF#8, 0x81#8] (withRegs [(1#4, 0x3C#8), (2#4, 0x1F#8)])) 1#4 2#4 2#4 3 0 :=
  ⟨⟨0, 7, by decide⟩, by decide, by decide, ⟨1, 0, by decide⟩⟩

/-- O42, O43: an empty sprite covers no pixel. -/
theorem witness_sprite_empty : ¬∃ c r, Statements.spriteCovers State.reset 0#4 0#4 0#4 c r := by
  rintro ⟨c, r, k, b, hk, _⟩
  exact absurd hk (Nat.not_lt_zero k)

/-- O44, O50 to O53: the last address at 0xFFF and at 0x1000. -/
theorem witness_data_bounds : ((2#4 : Nibble) ≠ 0#4 ∧ (State.reset.setI 0xFFF#16).i.toNat + (2#4).toNat - 1 > 0xFFF) ∧
    (State.reset.setI 0xFFE#16).i.toNat + 2 > 0xFFF ∧ (State.reset.setI 0xFFD#16).i.toNat + 2 ≤ 0xFFF ∧
    (State.reset.setI 0xFFF#16).i.toNat + (1#4).toNat > 0xFFF ∧
    (State.reset.setI 0xFF0#16).i.toNat + (0xF#4).toNat ≤ 0xFFF ∧ Memory.wf State.reset.mem = true := by decide

/-- O45: the last key number and the first past it, the key pressed and not. -/
theorem witness_key_numbers : ((withRegs [(0#4, 15#8)]).getV 0#4).toNat ≤ 15 ∧
    ((withRegs [(0#4, 16#8)]).getV 0#4).toNat > 15 ∧ (withKeys [15] State.reset).isPressed 15 = true ∧
    State.reset.isPressed 15 = false := by decide

/-- O47: key 9 the lowest pressed, key 15 pressed alone, and none. -/
theorem witness_pressed_keys : (withKeys [9, 12] State.reset).isPressed 9 = true ∧
    (∀ j < 9, (withKeys [9, 12] State.reset).isPressed j = false) ∧ (withKeys [15] State.reset).isPressed 15 = true ∧
    (∀ j < 15, (withKeys [15] State.reset).isPressed j = false) ∧ ∀ k < 16, State.reset.isPressed k = false := by decide

/-- O48, O49: the sum at 0xFFFF and at 0x10000 under each parameter, and both digit masks. -/
theorem witness_index_sums :
    ((withRegs [(0#4, 1#8)]).setI 0xFFFE#16).i.toNat + (((withRegs [(0#4, 1#8)]).setI 0xFFFE#16).getV 0#4).toNat ≤ 0xFFFF ∧
    ((withRegs [(0#4, 1#8)]).setI 0xFFFF#16).i.toNat + (((withRegs [(0#4, 1#8)]).setI 0xFFFF#16).getV 0#4).toNat > 0xFFFF ∧
    State.reset.cfg.iOverflow = .fault ∧ State.reset.cfg.fontDigitMask = .none ∧
    (withParams { defaultParams with iOverflow := .wrap, fontDigitMask := .lowNibble } State.reset).cfg.iOverflow = .wrap := by
  decide

/-- O56: the longest program that fits, the shortest that does not, and a halted core. -/
theorem witness_program_lengths : State.reset.running ∧ (List.replicate 3584 0#8).length ≤ 3584 ∧
    (List.replicate 3585 0#8).length > 3584 ∧ ({ State.reset with halted := true } : State).halted = true :=
  ⟨rfl, by rw [List.length_replicate], by rw [List.length_replicate]; decide, rfl⟩

/-- O57: the last key and the first past it. -/
theorem witness_keys : (∃ t, State.setKeyState State.reset 15 true = .next t ∧ t.isPressed 15 = true) ∧
    State.setKeyState State.reset 16 true = .refused .keyOutOfRange := ⟨⟨_, rfl, by decide⟩, rfl⟩

/-- O58: two registers stored at 0xFFE, the last word of memory, then fetched. -/
theorem witness_stored_word : Memory.wf State.reset.mem = true ∧ 1 ≤ (1#4).toNat ∧
    (State.reset.setI 0xFFE#16).i.toNat + (1#4).toNat ≤ 0xFFF ∧
    ∃ t, exec (.ldMemVx 1#4) ((withRegs [(0#4, 0x12#8), (1#4, 0x34#8)]).setI 0xFFE#16) = .next t ∧
      (t.jumpTo 0xFFE#16).mem = t.mem ∧ (t.jumpTo 0xFFE#16).pc = 0xFFE#16 :=
  ⟨by decide, by decide, by decide, ⟨_, rfl, rfl, rfl⟩⟩

end Sys2Proof.Tests
end

