-- ==== Sys2Proof/Proofs/Fetch.lean ====
section
/-! PROOF. The fetch: the order of its two bytes (R71), and what its checks make of a running core's step (R72, R73). -/

namespace Sys2Proof

/-! ### Big-endian words -/

@[simp] theorem highByte_wordOfBytes (hi lo : Byte) : highByte (wordOfBytes hi lo) = hi :=
  BitVec.extractLsb'_append_eq_left

@[simp] theorem lowByte_wordOfBytes (hi lo : Byte) : lowByte (wordOfBytes hi lo) = lo :=
  BitVec.extractLsb'_append_eq_right

theorem wordOfBytes_eq_shiftLeft_or (hi lo : Byte) :
    wordOfBytes hi lo = (hi.setWidth 16 <<< 8) ||| lo.setWidth 16 :=
  (BitVec.setWidth_eq (hi ++ lo)).symm.trans BitVec.setWidth_append_eq_shiftLeft_setWidth_or

namespace Machine

/-! ### The step around the fetch's checks -/

theorem State.fetchFault_of_pastEnd {s : State} (hpc : s.pc.toNat ≥ 0xFFF) : s.fetchFault = some .fetchOob :=
  if_pos hpc

/-- A failed check ends a running core's step at the fetch, before any opcode is latched. -/
theorem step_of_fetchFault_some {s : State} {code : FaultCode} (hrun : s.running) (hf : s.fetchFault = some code) :
    step s = .next (s.takeFault code none s.pc.toNat) := by
  rw [State.running] at hrun
  simp [step, runCycle, hrun, hf]

/-- Past its checks a running core's step is the rest of the cycle (R90 steps 4 to 7). -/
theorem step_of_fetchFault_none {s : State} (hrun : s.running) (hf : s.fetchFault = none) :
    step s = runFetched s.fetched := by
  rw [State.running] at hrun
  simp [step, runCycle, hrun, hf]

theorem faultTaken_takeFault (s : State) (code : FaultCode) (opcode : Option Word) (addr : Nat) :
    faultTaken s (s.takeFault code opcode addr) code opcode addr := by
  simp [faultTaken]

theorem faultKeeps_takeFault (s : State) (code : FaultCode) (opcode : Option Word) (addr : Nat) :
    faultKeeps s (s.takeFault code opcode addr) := by
  simp [faultKeeps]

/-- An instruction that completes leaves the opcode its cycle latched (R46). -/
theorem exec_opc {i : Instr} {s t : State} (h : exec i s = .next t) (ht : t.halted = false) : t.opc = s.opc := by
  obtain ⟨code, addr, rfl⟩ | ⟨hopc, -⟩ := exec_cases h
  · simp at ht
  · exact hopc

/-- After every completed cycle, UNKNOWN or not, `OPC` is the fetched word (R71, R46). -/
theorem step_opc {s t : State} (h : step s = .next t) (ht : t.halted = false) : t.opc = s.fetchWord := by
  obtain ⟨-, ⟨code, -, rfl⟩ | ⟨-, -, rfl⟩ | ⟨i, u, -, -, hu, rfl⟩⟩ := step_cases h
  · simp at ht
  · simp
  · cases hh : u.halted with
    | true => simp [hh] at ht
    | false => simpa [hh] using exec_opc hu hh

end Machine

end Sys2Proof

open Sys2Proof Sys2Proof.Machine

/-- Settles O5: the word's bytes by the append's own halves, OPC by the cases of a step. -/
theorem fetchIsBigEndian : Obligations.FetchIsBigEndian :=
  ⟨fun _ => ⟨wordOfBytes_eq_shiftLeft_or _ _, highByte_wordOfBytes _ _, lowByte_wordOfBytes _ _⟩, fun _ _ => step_opc⟩

/-- Settles O7: at 0xFFF and above the first check fails; 0xFFE is even, so it passes both checks under either value
of `ODD_PC`. -/
theorem fetchPastEndFaults : Obligations.FetchPastEndFaults := by
  refine ⟨fun s hrun hpc => ?_, fun s hrun hpc => ?_⟩
  · exact ⟨_, step_of_fetchFault_some hrun (State.fetchFault_of_pastEnd hpc),
      faultTaken_takeFault s _ _ _, faultKeeps_takeFault s _ _ _⟩
  · have hpass : s.fetchFault = none := by simp [fetchFault_none, hpc]
    exact ⟨by simp [State.fetchWord, hpc], step_of_fetchFault_none hrun hpass⟩

end

