-- ==== Sys2Proof/Proofs/DecodeWords.lean ====
section
/-! PROOF. From a mask and a match of R105 to the fields of the word, and from the fields to the decoded instruction. -/

namespace Sys2Proof

/-! ### The fields a mask and a match fix -/

theorem fieldFamily_of_mask {op : Word} {f : Nibble} (h : op &&& 0xF000#16 = encodeXnn f 0#4 0#8) :
    fieldFamily op = f := by
  rw [and_familyMask] at h
  simpa using congrArg fieldFamily h

theorem fields_of_lowNibbleMask {op : Word} {f n : Nibble} (h : op &&& 0xF00F#16 = encodeXyn f 0#4 0#4 n) :
    fieldFamily op = f ∧ fieldN op = n := by
  rw [and_lowNibbleMask] at h
  exact ⟨by simpa using congrArg fieldFamily h, by simpa using congrArg fieldN h⟩

namespace Statements

/-! ### Decode clauses, by the bits the row fixes -/

/-- A row that fixes the whole word. -/
theorem decodesBy_of_word {mode : DecodeMode} {pattern : Word} {build : Word → Instr}
    (h : decodeWord mode pattern = some (build pattern)) : decodesBy mode 0xFFFF#16 pattern build := by
  intro op hop
  obtain rfl : op = pattern := BitVec.and_allOnes.symm.trans hop
  exact h

/-- A row that fixes the family alone. -/
theorem decodesBy_of_family {mode : DecodeMode} {build : Word → Instr} (f : Nibble)
    (h : ∀ op, fieldFamily op = f → decodeWord mode op = some (build op)) :
    decodesBy mode 0xF000#16 (encodeXnn f 0#4 0#8) build :=
  fun op hop => h op (fieldFamily_of_mask hop)

/-- A row that fixes the family and `n`. -/
theorem decodesBy_of_lowNibble {mode : DecodeMode} {build : Word → Instr} (f n : Nibble)
    (h : ∀ op, fieldFamily op = f → fieldN op = n → decodeWord mode op = some (build op)) :
    decodesBy mode 0xF00F#16 (encodeXyn f 0#4 0#4 n) build :=
  fun op hop => have ⟨hf, hn⟩ := fields_of_lowNibbleMask hop; h op hf hn

end Statements

end Sys2Proof
end

