-- ==== Sys2Proof/Proofs/Flow.lean ====
section
/-! PROOF. The system and flow instructions (40_system_and_flow.md): the words of each, its result and its fault. -/

namespace Sys2Proof

/-! ### Decode of families 1 to 5 and 9 (R97 to R102) -/

section decode
variable {mode : DecodeMode} {op : Word}

theorem decodeWord_family1 (hf : fieldFamily op = 1#4) : decodeWord mode op = some (.jp (fieldNnn op)) := by
  simp [decodeWord, hf]

theorem decodeWord_family2 (hf : fieldFamily op = 2#4) : decodeWord mode op = some (.call (fieldNnn op)) := by
  simp [decodeWord, hf]

theorem decodeWord_family3 (hf : fieldFamily op = 3#4) :
    decodeWord mode op = some (.seVxNn (fieldX op) (fieldNn op)) := by
  simp [decodeWord, hf]

theorem decodeWord_family4 (hf : fieldFamily op = 4#4) :
    decodeWord mode op = some (.sneVxNn (fieldX op) (fieldNn op)) := by
  simp [decodeWord, hf]

theorem decodeWord_family5 (hf : fieldFamily op = 5#4) :
    decodeWord mode op = decodePair mode op (.seVxVy (fieldX op) (fieldY op)) := by
  simp [decodeWord, hf]

theorem decodeWord_family9 (hf : fieldFamily op = 9#4) :
    decodeWord mode op = decodePair mode op (.sneVxVy (fieldX op) (fieldY op)) := by
  simp [decodeWord, hf]

theorem decodePair_strict (hn : fieldN op = 0#4) (i : Instr) : decodePair .strict op i = some i := if_pos hn

theorem decodePair_lowField (i : Instr) : decodePair .lowField op i = some i := rfl

end decode

namespace Machine

theorem addrOperand_toNat (nnn : Addr12) : (addrOperand nnn).toNat = nnn.toNat :=
  BitVec.toNat_setWidth_of_le (by decide)

/-- An execute that raises a fatal fault takes it, with `OPC` in the record. -/
theorem execFaults_of_raiseFatal {i : Instr} {s : State} {code : FaultCode} {addr : Nat}
    (h : exec i s = raiseFatal code addr s) : execFaults i s code addr :=
  ⟨_, h, faultTaken_takeFault s code (some s.opc) addr⟩

/-! ### Return and call on each side of their stack checks (R121, R123, R204, R205) -/

theorem exec_ret_of_empty {s : State} (h : s.sp.val = 0) : exec .ret s = raiseFatal .stackUnderflow s.pc.toNat s :=
  if_pos h

theorem exec_ret_of_pos {s : State} (h : 0 < s.sp.val) :
    exec .ret s = .next (s.pop.jumpTo (s.stackAt s.pop.sp.val + 2#16)) :=
  if_neg (Nat.ne_of_gt h)

theorem exec_call_of_full {s : State} (nnn : Addr12) (h : s.sp.val = 16) :
    exec (.call nnn) s = raiseFatal .stackOverflow s.pc.toNat s :=
  if_pos h

theorem exec_call_of_lt {s : State} (nnn : Addr12) (h : s.sp.val < 16) :
    exec (.call nnn) s = .next ((s.push s.pc).jumpTo (addrOperand nnn)) :=
  if_neg (Nat.ne_of_lt h)

end Machine

namespace Statements

open Machine

/-! ### Skips (R20, R128) -/

/-- The model's skip on a Boolean is the statements' skip on the condition it decides. -/
theorem skips_skipIf (s : State) {b : Bool} {c : Prop} [Decidable c] (h : b = true ↔ c) : skips s (s.skipIf b) c := by
  refine ⟨by simp [h], ?_⟩
  cases b <;> rfl

end Statements

end Sys2Proof

open Sys2Proof Sys2Proof.Machine Sys2Proof.Statements

/-- Settles O29: SP = 0 and SP > 0 are the two sides of the stack check; the pop leaves the stack's entries. -/
theorem returnResult : Obligations.ReturnResult :=
  ⟨decodesBy_of_word rfl, fun s hsp => ⟨_, exec_ret_of_pos hsp, s.pop_sp_val, rfl, rfl⟩,
    fun _ hsp => execFaults_of_raiseFatal (exec_ret_of_empty hsp)⟩

/-- Settles O31: SP = 16 and SP < 16 are the two sides of the stack check; below 16 the push stores the call's own
address at SP and leaves the other entries. -/
theorem callResult : Obligations.CallResult := by
  refine ⟨fun _ => decodesBy_of_family 2#4 fun _ => decodeWord_family2, fun nnn s hsp => ?_,
    fun nnn s hsp => execFaults_of_raiseFatal (exec_call_of_full nnn hsp)⟩
  refine ⟨_, exec_call_of_lt nnn hsp, ?_, fun k hk => ?_, s.push_sp_val s.pc hsp, addrOperand_toNat nnn, rfl⟩
  · simp [State.stackAt_push s _ hsp]
  · simp [State.stackAt_push s _ hsp, hk]

/-- Settles O28: the framebuffer stored is the cleared one, whose pixels are all off. -/
theorem clearDisplayResult : Obligations.ClearDisplayResult :=
  ⟨decodesBy_of_word rfl, fun _ => ⟨_, rfl, Framebuffer.get_clear, rfl, rfl⟩⟩

/-- Settles O30: the target is `nnn` zero-extended. -/
theorem jumpResult : Obligations.JumpResult :=
  ⟨fun _ => decodesBy_of_family 1#4 fun _ => decodeWord_family1,
    fun nnn _ => ⟨_, rfl, addrOperand_toNat nnn, rfl⟩⟩

/-- Settles O33: both skips are `skipIf`, on the Boolean comparison of V[x] with `nn`. -/
theorem immediateSkipResult : Obligations.ImmediateSkipResult := by
  refine ⟨fun _ => ⟨?_, ?_⟩, fun x nn s => ⟨?_, ?_⟩⟩
  · exact decodesBy_of_family 3#4 fun _ => decodeWord_family3
  · exact decodesBy_of_family 4#4 fun _ => decodeWord_family4
  · exact ⟨_, rfl, skips_skipIf s beq_iff_eq⟩
  · exact ⟨_, rfl, skips_skipIf s bne_iff_ne⟩

/-- Settles O34: `n` is checked under strict and free under low_field; both skips are `skipIf`, on the Boolean
comparison of the two registers. -/
theorem registerSkipResult : Obligations.RegisterSkipResult := by
  refine ⟨⟨?_, ?_, ?_, ?_⟩, fun x y s => ⟨?_, ?_⟩⟩
  · exact decodesBy_of_lowNibble 5#4 0#4 fun _ hf hn => (decodeWord_family5 hf).trans (decodePair_strict hn _)
  · exact decodesBy_of_lowNibble 9#4 0#4 fun _ hf hn => (decodeWord_family9 hf).trans (decodePair_strict hn _)
  · exact decodesBy_of_family 5#4 fun _ hf => (decodeWord_family5 hf).trans (decodePair_lowField _)
  · exact decodesBy_of_family 9#4 fun _ hf => (decodeWord_family9 hf).trans (decodePair_lowField _)
  · exact ⟨_, rfl, skips_skipIf s beq_iff_eq⟩
  · exact ⟨_, rfl, skips_skipIf s bne_iff_ne⟩

end

