-- ==== Sys2Proof/Proofs/LoadAlu.lean ====
section
/-! PROOF. The loads and the register ALU (41_load_and_alu.md): the words of families 6, 7 and 8, the cycle of an UNKNOWN
word, the result and the flag of each operation. -/

namespace Sys2Proof

/-! ### Decode of families 6, 7 and 8 (R98, R152) -/

section decode
variable {mode : DecodeMode} {op : Word}

theorem decodeWord_family6 (hf : fieldFamily op = 6#4) :
    decodeWord mode op = some (.ldVxNn (fieldX op) (fieldNn op)) := by
  simp [decodeWord, hf]

theorem decodeWord_family7 (hf : fieldFamily op = 7#4) :
    decodeWord mode op = some (.addVxNn (fieldX op) (fieldNn op)) := by
  simp [decodeWord, hf]

theorem decodeWord_family8 (hf : fieldFamily op = 8#4) : decodeWord mode op = decodeFamily8 op := by
  simp [decodeWord, hf]

theorem decodeFamily8_ld (hn : fieldN op = 0#4) : decodeFamily8 op = some (.ldVxVy (fieldX op) (fieldY op)) := by
  simp [decodeFamily8, hn]

theorem decodeFamily8_or (hn : fieldN op = 1#4) : decodeFamily8 op = some (.orVxVy (fieldX op) (fieldY op)) := by
  simp [decodeFamily8, hn]

theorem decodeFamily8_and (hn : fieldN op = 2#4) : decodeFamily8 op = some (.andVxVy (fieldX op) (fieldY op)) := by
  simp [decodeFamily8, hn]

theorem decodeFamily8_xor (hn : fieldN op = 3#4) : decodeFamily8 op = some (.xorVxVy (fieldX op) (fieldY op)) := by
  simp [decodeFamily8, hn]

theorem decodeFamily8_add (hn : fieldN op = 4#4) : decodeFamily8 op = some (.addVxVy (fieldX op) (fieldY op)) := by
  simp [decodeFamily8, hn]

theorem decodeFamily8_sub (hn : fieldN op = 5#4) : decodeFamily8 op = some (.subVxVy (fieldX op) (fieldY op)) := by
  simp [decodeFamily8, hn]

theorem decodeFamily8_shr (hn : fieldN op = 6#4) : decodeFamily8 op = some (.shrVx (fieldX op) (fieldY op)) := by
  simp [decodeFamily8, hn]

theorem decodeFamily8_subn (hn : fieldN op = 7#4) : decodeFamily8 op = some (.subnVxVy (fieldX op) (fieldY op)) := by
  simp [decodeFamily8, hn]

theorem decodeFamily8_shl (hn : fieldN op = 0xE#4) : decodeFamily8 op = some (.shlVx (fieldX op) (fieldY op)) := by
  simp [decodeFamily8, hn]

theorem decodeFamily8_unlisted {k : Nibble} (hk : k ∈ [8#4, 9#4, 0xA#4, 0xB#4, 0xC#4, 0xD#4, 0xF#4])
    (hn : fieldN op = k) : decodeFamily8 op = none := by
  fin_cases hk <;> simp [decodeFamily8, hn]

end decode

namespace Machine

/-! ### The cycle of an UNKNOWN word (R210) -/

theorem State.fetchable.fetchFault_eq_none {s : State} (hfetch : s.fetchable) : s.fetchFault = none :=
  fetchFault_none.mpr ⟨Nat.lt_succ_of_le hfetch.1, hfetch.2⟩

/-- A running core whose fetch passes its checks and finds no instruction emits the event and ends the cycle. -/
theorem step_of_decoded_none {s : State} (hrun : s.running) (hfetch : s.fetchable) (hdec : s.decoded = none) :
    step s = .next (s.fetched.emitUnknown.endCycle false) := by
  rw [State.decoded] at hdec
  rw [step_of_fetchFault_none hrun hfetch.fetchFault_eq_none]
  simp [runFetched, hdec]

/-! ### Result and flag of each flag-writing operation (R147 to R151) -/

section results
variable (a b : Byte)

theorem trunc8_mod (n : Nat) : trunc8 n = BitVec.ofNat 8 (n % 256) := by
  apply BitVec.eq_of_toNat_eq
  simp [trunc8]

theorem flagByte_aluAdd : flagByte (aluAdd a b).f = if a.toNat + b.toNat > 255 then 1#8 else 0#8 := by
  simp [aluAdd, flagByte]

/-- The model's difference, kept natural by adding 256, is the integers' difference modulo 256. -/
theorem aluSub_r : (aluSub a b).r = BitVec.ofInt 8 ((a.toNat - b.toNat : Int) % 256) := by
  apply BitVec.eq_of_toNat_eq
  have := a.isLt; have := b.isLt
  simp only [aluSub, trunc8, BitVec.toNat_ofNat, BitVec.toNat_ofInt]
  omega

theorem flagByte_aluSub : flagByte (aluSub a b).f = if b.toNat > a.toNat then 0#8 else 1#8 := by
  by_cases h : b.toNat ≤ a.toNat
  · simp [aluSub, flagByte, h, Nat.not_lt.mpr h]
  · simp [aluSub, flagByte, h, Nat.not_le.mp h]

/-- A bit taken as a flag is that bit's value, as a number. -/
theorem flagByte_getLsbD_toNat (k : Nat) : (flagByte (a.getLsbD k)).toNat = a.toNat / 2 ^ k % 2 := by
  rw [BitVec.getLsbD, Nat.testBit_eq_decide_div_mod_eq]
  obtain h | h := Nat.mod_two_eq_zero_or_one (a.toNat / 2 ^ k) <;> simp [flagByte, h]

theorem aluShr_r : (aluShr a).r = a >>> 1 := by
  apply BitVec.eq_of_toNat_eq
  have := a.isLt
  simp only [aluShr, trunc8, BitVec.toNat_ofNat, BitVec.toNat_ushiftRight, Nat.shiftRight_eq_div_pow]
  omega

theorem flagByte_aluShr : flagByte (aluShr a).f = a &&& 1#8 := by
  apply BitVec.eq_of_toNat_eq
  rw [aluShr, flagByte_getLsbD_toNat, BitVec.toNat_and]
  simp

theorem aluShl_r : (aluShl a).r = a <<< 1 := by
  apply BitVec.eq_of_toNat_eq
  simp only [aluShl, trunc8, BitVec.toNat_ofNat, BitVec.toNat_shiftLeft, Nat.shiftLeft_eq]
  omega

theorem flagByte_aluShl : flagByte (aluShl a).f = a >>> 7 := by
  apply BitVec.eq_of_toNat_eq
  have := a.isLt
  rw [aluShl, flagByte_getLsbD_toNat, BitVec.toNat_ushiftRight, Nat.shiftRight_eq_div_pow]
  omega

end results

end Machine

namespace Statements

open Machine

/-! ### The words of family 8, and the two shapes of its results (R142) -/

/-- A row of family 8: both decode modes read it alike. -/
theorem decodesBy_of_family8 {mode : DecodeMode} {build : Word → Instr} (n : Nibble)
    (h : ∀ op, fieldN op = n → decodeFamily8 op = some (build op)) :
    decodesBy mode 0xF00F#16 (encodeXyn 8#4 0#4 0#4 n) build :=
  decodesBy_of_lowNibble 8#4 n fun op hf hn => (decodeWord_family8 hf).trans (h op hn)

theorem writesReg_finishReg (s : State) (x : Nibble) (b : Byte) : writesReg s (s.finishReg x b) x b := by
  refine ⟨?_, fun y hy => ?_, rfl, rfl⟩
  · simp [State.finishReg]
  · simp [State.finishReg, State.getV_setV, hy]

theorem writesResultAndFlag_finishAlu (s : State) (x : Nibble) (res : AluResult) :
    writesResultAndFlag s (s.finishAlu x res) x res.r (flagByte res.f) := by
  have hget (y : Nibble) : (s.finishAlu x res).getV y = (s.writeRF x res.r (flagByte res.f)).getV y := rfl
  refine ⟨fun hx => ⟨?_, ?_⟩, fun hx => ?_, fun y hyx hyf => ?_, ?_, ?_⟩
  · rw [hget, State.getV_writeRF, if_pos ⟨rfl, .inl hx⟩]
  · rw [hget, State.getV_writeRF, if_neg (fun h => hx h.1.symm), if_pos rfl]
  · subst hx
    rw [hget, State.getV_writeRF]
    cases s.cfg.vfOrder <;> simp
  · rw [hget, State.getV_writeRF, if_neg (fun h => hyx h.1), if_neg hyf]
  · simp [State.finishAlu]
  · simp only [State.finishAlu, State.writeRF]
    cases s.cfg.vfOrder <;> rfl

end Statements

end Sys2Proof

open Sys2Proof Sys2Proof.Machine Sys2Proof.Statements

/-- Settles O11: no row of family 8 has such an `n`, so the step is the UNKNOWN cycle, which leaves V and I. -/
theorem unlistedAluWordIsUnknown : Obligations.UnlistedAluWordIsUnknown := by
  intro x y k hk
  have hdec (mode : DecodeMode) : decodeWord mode (encodeXyn 8#4 x y k) = none :=
    (decodeWord_family8 (fieldFamily_encodeXyn ..)).trans (decodeFamily8_unlisted hk (fieldN_encodeXyn ..))
  refine ⟨hdec, fun s hrun hfetch hword => ?_⟩
  have hnone : s.decoded = none := by rw [State.decoded, hword, hdec]
  exact ⟨_, step_of_decoded_none hrun hfetch hnone, rfl, rfl, rfl, by simp [hword]⟩

/-- Settles O37: WriteRF puts the sum, reduced modulo 256, and the carry. -/
theorem addWithCarryResult : Obligations.AddWithCarryResult := by
  refine ⟨fun _ => decodesBy_of_family8 4#4 fun _ => decodeFamily8_add, fun x y s => ⟨_, rfl, ?_⟩⟩
  rw [← flagByte_aluAdd, ← trunc8_mod]
  exact writesResultAndFlag_finishAlu s x (aluAdd (s.getV x) (s.getV y))

/-- Settles O38: SUB and SUBN are one subtraction with its operands exchanged. -/
theorem subtractResult : Obligations.SubtractResult := by
  have hwrites (s : State) (x : Nibble) (a b : Byte) := writesResultAndFlag_finishAlu s x (aluSub a b)
  simp only [aluSub_r, flagByte_aluSub] at hwrites
  refine ⟨fun _ => ⟨?_, ?_⟩, fun x y s => ⟨⟨_, rfl, ?_⟩, ⟨_, rfl, ?_⟩⟩⟩
  · exact decodesBy_of_family8 5#4 fun _ => decodeFamily8_sub
  · exact decodesBy_of_family8 7#4 fun _ => decodeFamily8_subn
  · exact hwrites s x (s.getV x) (s.getV y)
  · exact hwrites s x (s.getV y) (s.getV x)

/-- Settles O39: halving and doubling modulo 256 are the shifts, and the flag is the bit shifted out. -/
theorem shiftResult : Obligations.ShiftResult := by
  refine ⟨fun _ => ⟨?_, ?_⟩, fun x y s => ⟨⟨_, rfl, ?_⟩, ⟨_, rfl, ?_⟩⟩⟩
  · exact decodesBy_of_family8 6#4 fun _ => decodeFamily8_shr
  · exact decodesBy_of_family8 0xE#4 fun _ => decodeFamily8_shl
  · rw [← aluShr_r, ← flagByte_aluShr]
    exact writesResultAndFlag_finishAlu s x (aluShr (s.getV x))
  · rw [← aluShl_r, ← flagByte_aluShl]
    exact writesResultAndFlag_finishAlu s x (aluShl (s.getV x))

/-- Settles O35: both write one register; the sum is reduced modulo 256. -/
theorem immediateLoadAndAddResult : Obligations.ImmediateLoadAndAddResult := by
  refine ⟨fun _ => ⟨?_, ?_⟩, fun x nn s => ⟨⟨_, rfl, ?_⟩, ⟨_, rfl, ?_⟩⟩⟩
  · exact decodesBy_of_family 6#4 fun _ => decodeWord_family6
  · exact decodesBy_of_family 7#4 fun _ => decodeWord_family7
  · exact writesReg_finishReg s x nn
  · rw [← trunc8_mod]
    exact writesReg_finishReg s x _

/-- Settles O36: each of the four writes one register, with the value its operator gives of the old operands. -/
theorem copyAndLogicResult : Obligations.CopyAndLogicResult := by
  refine ⟨fun _ => ⟨?_, ?_, ?_, ?_⟩, fun x y s => ?_⟩
  · exact decodesBy_of_family8 0#4 fun _ => decodeFamily8_ld
  · exact decodesBy_of_family8 1#4 fun _ => decodeFamily8_or
  · exact decodesBy_of_family8 2#4 fun _ => decodeFamily8_and
  · exact decodesBy_of_family8 3#4 fun _ => decodeFamily8_xor
  · exact ⟨⟨_, rfl, writesReg_finishReg s x _⟩, ⟨_, rfl, writesReg_finishReg s x _⟩,
      ⟨_, rfl, writesReg_finishReg s x _⟩, ⟨_, rfl, writesReg_finishReg s x _⟩⟩

end

