-- ==== Sys2Proof/Proofs/IndexRandom.lean ====
section
/-! PROOF. The index load, the indexed jump and the random byte (R160 to R162): the words of families A, B and C, the
jump's unreduced sum, and the whole cycle of an instruction that completes. -/

namespace Sys2Proof

/-! ### Decode of families A, B and C -/

section decode
variable {mode : DecodeMode} {op : Word}

theorem decodeWord_familyA (hf : fieldFamily op = 0xA#4) : decodeWord mode op = some (.ldINnn (fieldNnn op)) := by
  simp [decodeWord, hf]

theorem decodeWord_familyB (hf : fieldFamily op = 0xB#4) : decodeWord mode op = some (.jpV0 (fieldNnn op)) := by
  simp [decodeWord, hf]

theorem decodeWord_familyC (hf : fieldFamily op = 0xC#4) :
    decodeWord mode op = some (.rndVxNn (fieldX op) (fieldNn op)) := by
  simp [decodeWord, hf]

end decode

namespace Machine

/-- The target of the indexed jump is the exact sum: 0xFFF + 0xFF does not wrap in 16 bits (R161). -/
theorem addrOperand_add_wideV_toNat (nnn : Addr12) (s : State) (x : Nibble) :
    (addrOperand nnn + s.wideV x).toNat = nnn.toNat + (s.getV x).toNat := by
  have hwide : (s.wideV x).toNat = (s.getV x).toNat := BitVec.toNat_setWidth_of_le (by decide)
  have := nnn.isLt; have := (s.getV x).isLt
  have hlt : (addrOperand nnn).toNat + (s.wideV x).toNat < 2 ^ 16 := by rw [addrOperand_toNat, hwide]; omega
  rw [BitVec.toNat_add_of_lt hlt, addrOperand_toNat, hwide]

/-- A running core whose fetched instruction completes ends the cycle with the timers' tick and AWAIT (R90). -/
theorem step_of_exec_completes {s t : State} {i : Instr} (hrun : s.running) (hfetch : s.fetchable)
    (hdec : s.decoded = some i) (hexec : exec i s.fetched = .next t) (ht : t.halted = false) :
    step s = .next (t.endCycle (waitsForKey i s.fetched)) := by
  rw [State.decoded] at hdec
  rw [step_of_fetchFault_none hrun hfetch.fetchFault_eq_none]
  simp [runFetched, hdec, hexec, finishCycle, ht]

end Machine

end Sys2Proof

open Sys2Proof Sys2Proof.Machine Sys2Proof.Statements

/-- Settles O41: execute masks the latched byte, which a cycle's fetch has set to its own draw. -/
theorem randomByteResult : Obligations.RandomByteResult := by
  refine ⟨fun _ => decodesBy_of_family 0xC#4 fun _ => decodeWord_familyC, fun x nn s => ?_,
    fun x nn s hrun hfetch hdec => ?_⟩
  · exact ⟨_, rfl, writesReg_finishReg s x (nn &&& s.rnd)⟩
  · obtain ⟨hget, -⟩ := writesReg_finishReg s.fetched x (nn &&& s.fetched.rnd)
    exact ⟨_, step_of_exec_completes hrun hfetch hdec rfl hrun, hget, rfl⟩

/-- Settles O40: I takes `nnn` zero-extended; the jump's target is the sum in 16 bits, where it cannot wrap. -/
theorem indexLoadAndIndexedJumpResult : Obligations.IndexLoadAndIndexedJumpResult := by
  refine ⟨fun _ => ⟨?_, ?_⟩, fun nnn s => ⟨?_, ?_⟩⟩
  · exact decodesBy_of_family 0xA#4 fun _ => decodeWord_familyA
  · exact decodesBy_of_family 0xB#4 fun _ => decodeWord_familyB
  · exact ⟨_, rfl, addrOperand_toNat nnn, rfl, rfl⟩
  · exact ⟨_, rfl, addrOperand_add_wideV_toNat nnn s 0#4, rfl⟩

end

