-- ==== Sys2Proof/Proofs/KeysTimersMemory.lean ====
section
/-! PROOF. The keys, the timers, the index register and the memory block operations (43_keys_timers_memory.md): the
words of families E and F, the two sides of each check, and the result of each instruction. -/

namespace Sys2Proof

/-! ### Decode of families E and F (R99, R100) -/

section decode
variable {mode : DecodeMode} {op : Word}

theorem fields_of_lowByteMask {f : Nibble} {nn : Byte} (h : op &&& 0xF0FF#16 = encodeXnn f 0#4 nn) :
    fieldFamily op = f ∧ fieldNn op = nn := by
  rw [and_lowByteMask] at h
  exact ⟨by simpa using congrArg fieldFamily h, by simpa using congrArg fieldNn h⟩

theorem decodeWord_familyE (hf : fieldFamily op = 0xE#4) : decodeWord mode op = decodeFamilyE op := by
  simp [decodeWord, hf]

theorem decodeWord_familyF (hf : fieldFamily op = 0xF#4) : decodeWord mode op = decodeFamilyF op := by
  simp [decodeWord, hf]

theorem decodeFamilyE_skp (hn : fieldNn op = 0x9E#8) : decodeFamilyE op = some (.skp (fieldX op)) := by
  simp [decodeFamilyE, hn]

theorem decodeFamilyE_sknp (hn : fieldNn op = 0xA1#8) : decodeFamilyE op = some (.sknp (fieldX op)) := by
  simp [decodeFamilyE, hn]

theorem decodeFamilyF_ldVxDt (hn : fieldNn op = 0x07#8) : decodeFamilyF op = some (.ldVxDt (fieldX op)) := by
  simp [decodeFamilyF, hn]

theorem decodeFamilyF_ldVxK (hn : fieldNn op = 0x0A#8) : decodeFamilyF op = some (.ldVxK (fieldX op)) := by
  simp [decodeFamilyF, hn]

theorem decodeFamilyF_ldDtVx (hn : fieldNn op = 0x15#8) : decodeFamilyF op = some (.ldDtVx (fieldX op)) := by
  simp [decodeFamilyF, hn]

theorem decodeFamilyF_ldStVx (hn : fieldNn op = 0x18#8) : decodeFamilyF op = some (.ldStVx (fieldX op)) := by
  simp [decodeFamilyF, hn]

theorem decodeFamilyF_addIVx (hn : fieldNn op = 0x1E#8) : decodeFamilyF op = some (.addIVx (fieldX op)) := by
  simp [decodeFamilyF, hn]

theorem decodeFamilyF_ldFVx (hn : fieldNn op = 0x29#8) : decodeFamilyF op = some (.ldFVx (fieldX op)) := by
  simp [decodeFamilyF, hn]

theorem decodeFamilyF_ldBVx (hn : fieldNn op = 0x33#8) : decodeFamilyF op = some (.ldBVx (fieldX op)) := by
  simp [decodeFamilyF, hn]

theorem decodeFamilyF_ldMemVx (hn : fieldNn op = 0x55#8) : decodeFamilyF op = some (.ldMemVx (fieldX op)) := by
  simp [decodeFamilyF, hn]

theorem decodeFamilyF_ldVxMem (hn : fieldNn op = 0x65#8) : decodeFamilyF op = some (.ldVxMem (fieldX op)) := by
  simp [decodeFamilyF, hn]

end decode

namespace Statements

variable {mode : DecodeMode} {build : Word → Instr}

/-- A row that fixes the family and `nn`. -/
theorem decodesBy_of_lowByte (f : Nibble) (nn : Byte)
    (h : ∀ op, fieldFamily op = f → fieldNn op = nn → decodeWord mode op = some (build op)) :
    decodesBy mode 0xF0FF#16 (encodeXnn f 0#4 nn) build :=
  fun op hop => have ⟨hf, hn⟩ := fields_of_lowByteMask hop; h op hf hn

theorem decodesBy_of_familyE (nn : Byte) (h : ∀ op, fieldNn op = nn → decodeFamilyE op = some (build op)) :
    decodesBy mode 0xF0FF#16 (encodeXnn 0xE#4 0#4 nn) build :=
  decodesBy_of_lowByte 0xE#4 nn fun op hf hn => (decodeWord_familyE hf).trans (h op hn)

theorem decodesBy_of_familyF (nn : Byte) (h : ∀ op, fieldNn op = nn → decodeFamilyF op = some (build op)) :
    decodesBy mode 0xF0FF#16 (encodeXnn 0xF#4 0#4 nn) build :=
  decodesBy_of_lowByte 0xF#4 nn fun op hf hn => (decodeWord_familyF hf).trans (h op hn)

end Statements

namespace Machine

variable {s : State} {x : Nibble}

/-! ### Keys (R180, R181, R183) -/

theorem exec_skp_of_le (h : (s.getV x).toNat ≤ 15) :
    exec (.skp x) s = .next (s.skipIf (s.isPressed (s.getV x).toNat)) :=
  if_neg (Nat.not_lt.mpr h)

theorem exec_skp_of_gt (h : (s.getV x).toNat > 15) : exec (.skp x) s = raiseFatal .keyIndex (s.getV x).toNat s :=
  if_pos h

theorem exec_sknp_of_le (h : (s.getV x).toNat ≤ 15) :
    exec (.sknp x) s = .next (s.skipIf (!s.isPressed (s.getV x).toNat)) :=
  if_neg (Nat.not_lt.mpr h)

theorem exec_sknp_of_gt (h : (s.getV x).toNat > 15) : exec (.sknp x) s = raiseFatal .keyIndex (s.getV x).toNat s :=
  if_pos h

theorem State.pressedKey_eq_some_of_lowest {k : Nat} (hk : k < 16) (hp : s.isPressed k = true)
    (hlow : ∀ j < k, s.isPressed j = false) : s.pressedKey = some k := by
  simp only [State.pressedKey, List.find?_range_eq_some, List.mem_range]
  exact ⟨hp, hk, fun j hj => by simp [hlow j hj]⟩

theorem exec_ldVxK_of_pressed {k : Nat} (h : s.pressedKey = some k) :
    exec (.ldVxK x) s = .next (s.finishReg x (BitVec.ofNat 8 k)) := by
  simp [exec, execLdVxK, h, State.finishReg]

theorem exec_ldVxK_of_none_pressed (h : s.pressedKey = none) : exec (.ldVxK x) s = .next s := by
  simp [exec, execLdVxK, h]

/-! ### Timers (R212) -/

/-- Down by one, never below 0: the truncated difference of naturals. -/
theorem tickByte_toNat (b : Byte) : (tickByte b).toNat = b.toNat - 1 := by
  unfold tickByte
  split
  · next h => simp [h]
  · next h => bv_omega

/-! ### The index register (R186, R187) -/

theorem exec_addIVx_of_completes (h : s.indexSum x ≤ 0xFFFF ∨ s.cfg.iOverflow = .wrap) :
    exec (.addIVx x) s = .next ((s.setI (BitVec.ofNat 16 (s.indexSum x % 0x10000))).advance 2#16) := by
  refine if_neg fun ⟨hgt, hfault⟩ => ?_
  obtain hle | hwrap := h
  · exact absurd hgt (Nat.not_lt.mpr hle)
  · simp [hwrap] at hfault

theorem exec_addIVx_of_overflow (h : s.indexSum x > 0xFFFF) (hfault : s.cfg.iOverflow = .fault) :
    exec (.addIVx x) s = raiseFatal .indexOverflow (s.indexSum x) s :=
  if_pos ⟨h, hfault⟩

theorem State.fontDigit_of_none (h : s.cfg.fontDigitMask = .none) : s.fontDigit x = (s.getV x).toNat := by
  simp [State.fontDigit, h]

theorem State.fontDigit_of_lowNibble (h : s.cfg.fontDigitMask = .lowNibble) :
    s.fontDigit x = (s.getV x).toNat % 16 := by
  simp [State.fontDigit, h]

/-- Masked or not the digit is a byte's value. -/
theorem State.fontDigit_lt (s : State) (x : Nibble) : s.fontDigit x < 256 := by
  have := (s.getV x).isLt
  unfold State.fontDigit
  split <;> omega

theorem glyphAddr_toNat {d : Nat} (h : d < 256) : (glyphAddr d).toNat = 5 * d := by
  simp only [glyphAddr, BitVec.toNat_ofNat]
  omega

/-! ### The memory blocks at I, on each side of their checks (R76, R188 to R190) -/

theorem State.blockFits_eq_false {len : Nat} : s.blockFits len = false ↔ s.i.toNat + len > 0x1000 := by
  simp [State.blockFits]

theorem exec_ldBVx_of_fits (h : s.i.toNat + 2 ≤ 0xFFF) :
    exec (.ldBVx x) s =
      .next ((s.setMem (Memory.writeBlock s.mem s.i.toNat (bcdDigits (s.getV x)))).advance 2#16) :=
  if_neg (by rw [State.blockFits_eq_false]; omega)

theorem exec_ldBVx_of_oob (h : s.i.toNat + 2 > 0xFFF) : exec (.ldBVx x) s = raiseFatal .memOob s.firstOob s :=
  if_pos (State.blockFits_eq_false.mpr (by omega))

theorem exec_ldMemVx_of_fits (h : s.i.toNat + x.toNat ≤ 0xFFF) :
    exec (.ldMemVx x) s =
      .next (((s.setMem (Memory.writeBlock s.mem s.i.toNat (s.regBytes x))).setI (s.indexAfterBlock x)).advance
        2#16) :=
  if_neg (by rw [State.blockFits_eq_false]; omega)

theorem exec_ldMemVx_of_oob (h : s.i.toNat + x.toNat > 0xFFF) :
    exec (.ldMemVx x) s = raiseFatal .memOob s.firstOob s :=
  if_pos (State.blockFits_eq_false.mpr (by omega))

theorem exec_ldVxMem_of_fits (h : s.i.toNat + x.toNat ≤ 0xFFF) :
    exec (.ldVxMem x) s = .next (((s.loadRegs x s.i.toNat).setI (s.indexAfterBlock x)).advance 2#16) :=
  if_neg (by rw [State.blockFits_eq_false]; omega)

theorem exec_ldVxMem_of_oob (h : s.i.toNat + x.toNat > 0xFFF) :
    exec (.ldVxMem x) s = raiseFatal .memOob s.firstOob s :=
  if_pos (State.blockFits_eq_false.mpr (by omega))

/-- After a block inside memory I is one past its last address, at most 0x1000. -/
theorem State.indexAfterBlock_toNat (h : s.i.toNat + x.toNat ≤ 0xFFF) :
    (s.indexAfterBlock x).toNat = s.i.toNat + x.toNat + 1 := by
  simp only [State.indexAfterBlock, BitVec.toNat_ofNat]
  omega

/-- The three digit bytes stored inside memory read back as the digits: each is below 256. -/
theorem Memory.read_writeBlock_bcdDigits {m : Memory} {a : Nat} (b : Byte) (hm : Memory.wf m = true)
    (ha : a + 2 ≤ 0xFFF) :
    (Memory.read (Memory.writeBlock m a (bcdDigits b)) a).toNat = b.toNat / 100 ∧
      (Memory.read (Memory.writeBlock m a (bcdDigits b)) (a + 1)).toNat = b.toNat / 10 % 10 ∧
      (Memory.read (Memory.writeBlock m a (bcdDigits b)) (a + 2)).toNat = b.toNat % 10 := by
  have hread (k : Nat) (hk : k < 3) :
      (Memory.read (Memory.writeBlock m a (bcdDigits b)) (a + k)).toNat = ((bcdDigits b)[k]'hk).toNat :=
    congrArg BitVec.toNat (Memory.read_writeBlock_inside (bcdDigits b) hk hm (Nat.succ_le_succ ha))
  have := b.isLt
  refine ⟨(hread 0 (by decide)).trans ?_, (hread 1 (by decide)).trans ?_, (hread 2 (by decide)).trans ?_⟩
  · exact Nat.mod_eq_of_lt (by omega)
  · exact Nat.mod_eq_of_lt (by omega)
  · exact Nat.mod_eq_of_lt (by omega)

/-- Register `k` of a dump inside memory reads back at its byte. -/
theorem Memory.read_writeBlock_regBytes {m : Memory} {a : Nat} {k : Nibble} (hm : Memory.wf m = true)
    (ha : a + x.toNat ≤ 0xFFF) (hk : k.toNat ≤ x.toNat) :
    Memory.read (Memory.writeBlock m a (s.regBytes x)) (a + k.toNat) = s.getV k := by
  have hlen := s.regBytes_length x
  rw [Memory.read_writeBlock_inside _ (by omega) hm (by omega), s.regBytes_getElem x k]

end Machine

end Sys2Proof

open Sys2Proof Sys2Proof.Machine Sys2Proof.Statements

/-- Settles O45: 15 is the key check's bound; on its near side both skips are `skipIf`, on the key's Boolean state. -/
theorem keySkipResult : Obligations.KeySkipResult := by
  refine ⟨fun _ => ⟨?_, ?_⟩, fun x s hle => ⟨⟨_, exec_skp_of_le hle, ?_⟩, ⟨_, exec_sknp_of_le hle, ?_⟩⟩,
    fun x s hgt => ⟨?_, ?_⟩⟩
  · exact decodesBy_of_familyE 0x9E#8 fun _ => decodeFamilyE_skp
  · exact decodesBy_of_familyE 0xA1#8 fun _ => decodeFamilyE_sknp
  · exact skips_skipIf s Iff.rfl
  · exact skips_skipIf s (iff_of_eq (Bool.not_eq_true' _))
  · exact execFaults_of_raiseFatal (exec_skp_of_gt hgt)
  · exact execFaults_of_raiseFatal (exec_sknp_of_gt hgt)

/-- Settles O46: execute reads and writes the timers as the fetch left them, and the cycle's end ticks the result. -/
theorem timerMoveResult : Obligations.TimerMoveResult := by
  refine ⟨fun _ => ⟨?_, ?_, ?_⟩, fun x s => ⟨?_, ?_, ?_⟩, fun x s hrun hfetch => ⟨fun hdec => ?_, fun hdec => ?_,
    fun hdec => ?_⟩⟩
  · exact decodesBy_of_familyF 0x07#8 fun _ => decodeFamilyF_ldVxDt
  · exact decodesBy_of_familyF 0x15#8 fun _ => decodeFamilyF_ldDtVx
  · exact decodesBy_of_familyF 0x18#8 fun _ => decodeFamilyF_ldStVx
  · exact ⟨_, rfl, writesReg_finishReg s x s.dt⟩
  · exact ⟨_, rfl, rfl, rfl, rfl⟩
  · exact ⟨_, rfl, rfl, rfl, rfl⟩
  · obtain ⟨hget, -⟩ := writesReg_finishReg s.fetched x s.dt
    exact ⟨_, step_of_exec_completes hrun hfetch hdec rfl hrun, hget, tickByte_toNat s.dt⟩
  · exact ⟨_, step_of_exec_completes hrun hfetch hdec rfl hrun, tickByte_toNat (s.getV x)⟩
  · exact ⟨_, step_of_exec_completes hrun hfetch hdec rfl hrun, tickByte_toNat (s.getV x)⟩

/-- Settles O47: the search answers the lowest pressed key, or none, and then the cycle only ticks and sets AWAIT. -/
theorem keyWaitResult : Obligations.KeyWaitResult := by
  refine ⟨fun _ => decodesBy_of_familyF 0x0A#8 fun _ => decodeFamilyF_ldVxK, fun x s k hk hp hlow => ?_,
    fun x s hnone => exec_ldVxK_of_none_pressed (State.pressedKey_none.mpr hnone),
    fun x s hrun hfetch hdec hnone => ?_⟩
  · have hkey := State.pressedKey_eq_some_of_lowest hk hp hlow
    exact ⟨_, exec_ldVxK_of_pressed hkey, writesReg_finishReg s x _⟩
  · have hkey : s.fetched.pressedKey = none := State.pressedKey_none.mpr hnone
    have hwait : waitsForKey (.ldVxK x) s.fetched = true := by simp [waitsForKey, hkey]
    exact ⟨_, step_of_exec_completes hrun hfetch hdec (exec_ldVxK_of_none_pressed hkey) hrun, rfl, rfl, hwait,
      tickByte_toNat s.dt, tickByte_toNat s.st⟩

/-- Settles O48: a completed addition leaves the sum modulo 0x10000, which up to 0xFFFF is the exact sum. -/
theorem addToIndexResult : Obligations.AddToIndexResult := by
  refine ⟨fun _ => decodesBy_of_familyF 0x1E#8 fun _ => decodeFamilyF_addIVx, fun x s =>
    ⟨fun hle => ⟨_, exec_addIVx_of_completes (.inl hle), ?_, rfl, rfl⟩,
      fun _ hwrap => ⟨_, exec_addIVx_of_completes (.inr hwrap), ?_, rfl, rfl⟩,
      fun hgt hfault => execFaults_of_raiseFatal (exec_addIVx_of_overflow hgt hfault)⟩⟩
  · simp [State.indexSum, Nat.mod_eq_of_lt (Nat.lt_succ_of_le hle)]
  · simp [State.indexSum]

/-- Settles O50: the block stored at I is the three digits. -/
theorem bcdStoreResult : Obligations.BcdStoreResult := by
  refine ⟨fun _ => decodesBy_of_familyF 0x33#8 fun _ => decodeFamilyF_ldBVx, fun x s hfits =>
    ⟨_, exec_ldBVx_of_fits hfits, fun hm => Memory.read_writeBlock_bcdDigits (s.getV x) hm hfits, fun a ha => ?_,
      rfl, rfl⟩, fun x s hoob => execFaults_of_raiseFatal (exec_ldBVx_of_oob hoob)⟩
  exact Memory.read_writeBlock_outside s.mem (bcdDigits (s.getV x)) ha

/-- Settles O51: the block stored at I is the registers' bytes, x + 1 of them. -/
theorem registerDumpResult : Obligations.RegisterDumpResult := by
  refine ⟨fun _ => decodesBy_of_familyF 0x55#8 fun _ => decodeFamilyF_ldMemVx, fun x s hfits =>
    ⟨_, exec_ldMemVx_of_fits hfits, fun hm k hk => Memory.read_writeBlock_regBytes hm hfits hk, fun a ha => ?_,
      State.indexAfterBlock_toNat hfits, rfl, rfl⟩, fun x s hoob => execFaults_of_raiseFatal (exec_ldMemVx_of_oob hoob)⟩
  have hlen := s.regBytes_length x
  exact Memory.read_writeBlock_outside s.mem (s.regBytes x) (by omega)

/-- Settles O52: a register of the loaded file is the byte read where its number is at most `x`, the old one above. -/
theorem registerLoadResult : Obligations.RegisterLoadResult := by
  refine ⟨fun _ => decodesBy_of_familyF 0x65#8 fun _ => decodeFamilyF_ldVxMem, fun x s hfits =>
    ⟨_, exec_ldVxMem_of_fits hfits, fun k hk => ?_, fun k hk => ?_, State.indexAfterBlock_toNat hfits, rfl, rfl⟩,
    fun x s hoob => execFaults_of_raiseFatal (exec_ldVxMem_of_oob hoob)⟩
  · simp [State.getV_loadRegs, hk]
  · simp [State.getV_loadRegs, Nat.not_le.mpr hk]

/-- Settles O49: 5 times a digit below 256 fits 16 bits; the parameter decides the digit. -/
theorem fontAddressResult : Obligations.FontAddressResult := by
  refine ⟨fun _ => decodesBy_of_familyF 0x29#8 fun _ => decodeFamilyF_ldFVx, fun x s => ?_⟩
  have hi : (glyphAddr (s.fontDigit x)).toNat = 5 * s.fontDigit x := glyphAddr_toNat (s.fontDigit_lt x)
  refine ⟨_, rfl, fun hmask => hi.trans ?_, fun hmask => hi.trans ?_, rfl, rfl⟩
  · rw [State.fontDigit_of_none hmask]
  · rw [State.fontDigit_of_lowNibble hmask]

end

