-- ==== Sys2Proof/Proofs/Exceptions.lean ====
section
/-! PROOF. Data accesses past the end of memory (R206), the cycle of an UNKNOWN word (R210), and the host's key and
present moves (R217, R218). -/

namespace Sys2Proof.Machine

variable {s : State} {x y n : Nibble}

/-! ### The sprite's memory check (R168, R206) -/

/-- With `n` not 0 the last row's address, `I + n - 1`, decides the check. -/
theorem exec_drw_of_oob (hn : n ≠ 0#4) (h : s.i.toNat + n.toNat - 1 > 0xFFF) :
    exec (.drw x y n) s = raiseFatal .memOob s.firstOob s :=
  if_pos ⟨fun hz => hn (BitVec.eq_of_toNat_eq hz), State.blockFits_eq_false.mpr (by omega)⟩

/-! ### The key move (R217) -/

theorem State.setKeyState_of_le {k : Nat} (p : Bool) (h : k ≤ 15) :
    s.setKeyState k p = .next { s with key := s.key.setIfInBounds k p } :=
  if_neg (Nat.not_lt.mpr h)

theorem State.setKeyState_of_gt {k : Nat} (p : Bool) (h : k > 15) : s.setKeyState k p = .refused .keyOutOfRange :=
  if_pos h

theorem State.isPressed_setKey_same {k : Nat} (p : Bool) (h : k ≤ 15) :
    State.isPressed { s with key := s.key.setIfInBounds k p } k = p := by
  simp only [State.isPressed, Vector.getElem?_setIfInBounds_self_of_lt (Nat.lt_succ_of_le h), Option.getD_some]

theorem State.isPressed_setKey_other {k j : Nat} (p : Bool) (h : j ≠ k) :
    State.isPressed { s with key := s.key.setIfInBounds k p } j = s.isPressed j := by
  simp only [State.isPressed, Vector.getElem?_setIfInBounds_ne h.symm]

end Sys2Proof.Machine

open Sys2Proof Sys2Proof.Machine Sys2Proof.Statements

/-- Settles O44: each of the four checks fails, and the fault's address is the first at or past I outside memory. -/
theorem dataAccessOutOfRangeFaults : Obligations.DataAccessOutOfRangeFaults := by
  refine fun x y n s => ⟨fun hn hoob => ?_, fun hoob => ?_, fun hoob => ⟨?_, ?_⟩⟩
  · exact execFaults_of_raiseFatal (exec_drw_of_oob hn hoob)
  · exact execFaults_of_raiseFatal (exec_ldBVx_of_oob hoob)
  · exact execFaults_of_raiseFatal (exec_ldMemVx_of_oob hoob)
  · exact execFaults_of_raiseFatal (exec_ldVxMem_of_oob hoob)

/-- Settles O10: the cycle is the fetch, the event and the cycle's end, whose composition is the stated record. -/
theorem unknownWordCycle : Obligations.UnknownWordCycle :=
  fun _ hrun hfetch hdec => step_of_decoded_none hrun hfetch hdec

/-- Settles O57: one entry of the keypad's vector is written, and only where the key number is in bounds. -/
theorem keyAndPresentMoves : Obligations.KeyAndPresentMoves := by
  refine fun k p s => ⟨fun hle => ?_, fun hgt => State.setKeyState_of_gt p hgt, rfl⟩
  exact ⟨_, State.setKeyState_of_le p hle, State.isPressed_setKey_same p hle,
    fun j hj => State.isPressed_setKey_other p hj, rfl⟩

end

