-- ==== Sys2Proof/Proofs/ResetLoad.lean ====
section
/-! PROOF. The host's reset of the core (R230) and its program load (R233, R209). -/

namespace Sys2Proof.Machine

/-! ### The memory after reset (R60, R230) -/

theorem resetByte_of_le {a : Nat} (h : 80 ≤ a) : resetByte a = 0#8 :=
  List.getD_eq_default _ _ h

theorem Memory.read_ofFont_of_lt (font : Vector Byte 80) {a : Nat} (h : a < 80) :
    Memory.read (Memory.ofFont font) a = font[a] := by
  have hlen : font.toList.length = 80 := font.length_toList
  have hread : Memory.read (Memory.ofFont font) (0 + a) = font.toList[a] :=
    Memory.read_writeBlock_inside font.toList (by omega) rfl (by omega)
  rwa [Nat.zero_add, Vector.getElem_toList] at hread

theorem Memory.read_ofFont_of_le (font : Vector Byte 80) {a : Nat} (h : 80 ≤ a) :
    Memory.read (Memory.ofFont font) a = 0#8 := by
  have hlen : font.toList.length = 80 := font.length_toList
  calc Memory.read (Memory.ofFont font) a
      = Memory.read [] a := Memory.read_writeBlock_outside [] font.toList (by omega)
    _ = 0#8 := resetByte_of_le h

/-! ### The register file and the stack after reset -/

variable (s : State)

theorem State.getV_initializeCore (x : Nibble) : s.initializeCore.getV x = 0#8 :=
  Vector.getElem_replicate x.isLt

theorem State.stackAt_initializeCore (k : Nat) : s.initializeCore.stackAt k = 0#16 := by
  have hstack : s.initializeCore.stack = Vector.replicate 16 0#16 := rfl
  rw [State.stackAt, hstack, Vector.getElem?_replicate]
  split <;> rfl

/-! ### The program load by its two checks (R233, R209) -/

variable {s} {bytes : List Byte}

theorem State.loadProgram_of_halted (h : s.halted = true) : s.loadProgram bytes = .refused .loadWhileHalted :=
  if_pos h

theorem State.loadProgram_of_gt (hrun : s.running) (h : bytes.length > 3584) :
    s.loadProgram bytes = .next (s.takeFault .loadOverflow none 0x1000) := by
  rw [State.running] at hrun
  simp [State.loadProgram, hrun, h]

theorem State.loadProgram_of_le (hrun : s.running) (h : bytes.length ≤ 3584) :
    s.loadProgram bytes = .next ((s.setMem (Memory.writeBlock s.mem 0x200 bytes)).jumpTo 0x200#16) := by
  rw [State.running] at hrun
  simp [State.loadProgram, hrun, Nat.not_lt.mpr h]

end Sys2Proof.Machine

open Sys2Proof Sys2Proof.Machine Sys2Proof.Statements

/-- Settles O55: the memory is the font's block over the reset contents; every other element is the reset record's, or
`s`'s own. -/
theorem initializeResetsCoreOnly : Obligations.InitializeResetsCoreOnly := by
  refine fun s => ⟨s.getV_initializeCore, rfl, rfl, rfl, s.stackAt_initializeCore, rfl, rfl, rfl, fun a ha => ?_,
    fun a ha => ?_, Memory.ofFont_wf s.cfg.font, rfl, rfl, rfl, rfl, rfl, rfl, rfl⟩
  · exact Memory.read_ofFont_of_lt s.cfg.font ha
  · exact Memory.read_ofFont_of_le s.cfg.font ha

/-- Settles O56: a block of at most 3584 bytes at 0x200 ends inside memory, so it reads back. -/
theorem loadProgramResult : Obligations.LoadProgramResult := by
  refine fun bytes s => ⟨fun hrun hle => ?_, fun hrun hgt => ?_, State.loadProgram_of_halted⟩
  · refine ⟨_, State.loadProgram_of_le hrun hle, fun hm k hk => ?_, fun a ha => ?_, rfl, rfl⟩
    · exact Memory.read_writeBlock_inside bytes hk hm (by omega)
    · exact Memory.read_writeBlock_outside s.mem bytes ha
  · exact ⟨_, State.loadProgram_of_gt hrun hgt, faultTaken_takeFault s _ _ _⟩

end

section
/-! PROOF. The decoder and the encoder together (R96, R102, R103, R105): each undoes the other, and decode is the match
and mask of the opcode map. -/

namespace Sys2Proof

variable {mode : DecodeMode} {op : Word} {i : Instr}

theorem decodeWord_family0 (hf : fieldFamily op = 0#4) : decodeWord mode op = decodeFamily0 mode op := by
  simp [decodeWord, hf]

theorem decodeWord_familyD (hf : fieldFamily op = 0xD#4) :
    decodeWord mode op = some (.drw (fieldX op) (fieldY op) (fieldN op)) := by
  simp [decodeWord, hf]

/-! ### Encode, then decode -/

theorem decodeWord_encode (mode : DecodeMode) (i : Instr) : decodeWord mode (encode i) = some i := by
  cases i with
  | cls | ret => cases mode <;> rfl
  | jp | call | ldINnn | jpV0 => simp [encode, decodeWord]
  | seVxNn | sneVxNn | ldVxNn | addVxNn | rndVxNn | drw => simp [encode, decodeWord]
  | seVxVy | sneVxVy => cases mode <;> simp [encode, decodeWord, decodePair]
  | ldVxVy | orVxVy | andVxVy | xorVxVy | addVxVy | subVxVy | shrVx | subnVxVy | shlVx =>
    simp [encode, decodeWord, decodeFamily8]
  | skp | sknp => simp [encode, decodeWord, decodeFamilyE]
  | ldVxDt | ldVxK | ldDtVx | ldStVx | addIVx | ldFVx | ldBVx | ldMemVx | ldVxMem =>
    simp [encode, decodeWord, decodeFamilyF]

/-! ### Decode, then encode -/

theorem encodeNnn_of_family {f : Nibble} (hf : (fieldFamily op).toNat = f.toNat) : encodeNnn f (fieldNnn op) = op := by
  rw [← BitVec.eq_of_toNat_eq hf, encodeNnn_fields]

theorem encodeXnn_of_family {f : Nibble} (hf : (fieldFamily op).toNat = f.toNat) :
    encodeXnn f (fieldX op) (fieldNn op) = op := by
  rw [← BitVec.eq_of_toNat_eq hf, encodeXnn_fields]

theorem encodeXnn_of_family_nn {f : Nibble} {nn : Byte} (hf : (fieldFamily op).toNat = f.toNat)
    (hn : (fieldNn op).toNat = nn.toNat) : encodeXnn f (fieldX op) nn = op := by
  rw [← BitVec.eq_of_toNat_eq hn, encodeXnn_of_family hf]

theorem encodeXyn_of_family {f : Nibble} (hf : (fieldFamily op).toNat = f.toNat) :
    encodeXyn f (fieldX op) (fieldY op) (fieldN op) = op := by
  rw [← BitVec.eq_of_toNat_eq hf, encodeXyn_fields]

theorem encodeXyn_of_family_n {f n : Nibble} (hf : (fieldFamily op).toNat = f.toNat)
    (hn : (fieldN op).toNat = n.toNat) : encodeXyn f (fieldX op) (fieldY op) n = op := by
  rw [← BitVec.eq_of_toNat_eq hn, encodeXyn_of_family hf]

theorem encode_of_decodeFamily0 (h : decodeFamily0 .strict op = some i) : encode i = op := by
  simp only [decodeFamily0] at h
  split at h
  · next hop => cases h; exact hop.symm
  · split at h
    · next hop => cases h; exact hop.symm
    · cases h

theorem decodePair_strict_eq_some {j : Instr} (h : decodePair .strict op j = some i) : fieldN op = 0#4 ∧ j = i := by
  simp only [decodePair] at h
  split at h
  · next hn => exact ⟨hn, Option.some.inj h⟩
  · cases h

theorem encode_of_decodeFamily8 (hf : (fieldFamily op).toNat = (8#4).toNat) (h : decodeFamily8 op = some i) :
    encode i = op := by
  unfold decodeFamily8 at h
  split at h <;> cases h <;> exact encodeXyn_of_family_n hf ‹_›

theorem encode_of_decodeFamilyE (hf : (fieldFamily op).toNat = (0xE#4).toNat) (h : decodeFamilyE op = some i) :
    encode i = op := by
  unfold decodeFamilyE at h
  split at h <;> cases h <;> exact encodeXnn_of_family_nn hf ‹_›

theorem encode_of_decodeFamilyF (hf : (fieldFamily op).toNat = (0xF#4).toNat) (h : decodeFamilyF op = some i) :
    encode i = op := by
  unfold decodeFamilyF at h
  split at h <;> cases h <;> exact encodeXnn_of_family_nn hf ‹_›

/-- Under strict decode every bit of the word is the row's or an operand's. -/
theorem encode_of_decodeWord_strict (h : decodeWord .strict op = some i) : encode i = op := by
  unfold decodeWord at h
  split at h
  case h_1 => exact encode_of_decodeFamily0 h
  case h_2 hf | h_3 hf | h_11 hf | h_12 hf => cases h; exact encodeNnn_of_family hf
  case h_4 hf | h_5 hf | h_7 hf | h_8 hf | h_13 hf => cases h; exact encodeXnn_of_family hf
  case h_6 hf | h_10 hf =>
    obtain ⟨hn, rfl⟩ := decodePair_strict_eq_some h
    exact encodeXyn_of_family_n hf (congrArg BitVec.toNat hn)
  case h_9 hf => exact encode_of_decodeFamily8 hf h
  case h_14 hf => cases h; exact encodeXyn_of_family hf
  case h_15 hf => exact encode_of_decodeFamilyE hf h
  case h_16 hf => exact encode_of_decodeFamilyF hf h
  case h_17 => cases h

/-! ### Decode and the rows of the opcode map -/

/-- Only the families 0, 5 and 9 read the mode (R102). -/
theorem decodeWord_lowField_eq_strict (h0 : (fieldFamily op).toNat ≠ 0) (h5 : (fieldFamily op).toNat ≠ 5)
    (h9 : (fieldFamily op).toNat ≠ 9) : decodeWord .lowField op = decodeWord .strict op := by
  unfold decodeWord
  split
  case h_1 hf => exact absurd hf h0
  case h_6 hf => exact absurd hf h5
  case h_10 hf => exact absurd hf h9
  all_goals rfl

theorem encodesRow (mode : DecodeMode) (i : Instr) : (opcodeRow i).accepts mode (encode i) = true :=
  match i with
  | .cls => Laws.EncodesRow.cls mode
  | .ret => Laws.EncodesRow.ret mode
  | .jp nnn => Laws.EncodesRow.jp nnn mode
  | .call nnn => Laws.EncodesRow.call nnn mode
  | .seVxNn x nn => Laws.EncodesRow.seVxNn x nn mode
  | .sneVxNn x nn => Laws.EncodesRow.sneVxNn x nn mode
  | .seVxVy x y => Laws.EncodesRow.seVxVy x y mode
  | .ldVxNn x nn => Laws.EncodesRow.ldVxNn x nn mode
  | .addVxNn x nn => Laws.EncodesRow.addVxNn x nn mode
  | .ldVxVy x y => Laws.EncodesRow.ldVxVy x y mode
  | .orVxVy x y => Laws.EncodesRow.orVxVy x y mode
  | .andVxVy x y => Laws.EncodesRow.andVxVy x y mode
  | .xorVxVy x y => Laws.EncodesRow.xorVxVy x y mode
  | .addVxVy x y => Laws.EncodesRow.addVxVy x y mode
  | .subVxVy x y => Laws.EncodesRow.subVxVy x y mode
  | .shrVx x y => Laws.EncodesRow.shrVx x y mode
  | .subnVxVy x y => Laws.EncodesRow.subnVxVy x y mode
  | .shlVx x y => Laws.EncodesRow.shlVx x y mode
  | .sneVxVy x y => Laws.EncodesRow.sneVxVy x y mode
  | .ldINnn nnn => Laws.EncodesRow.ldINnn nnn mode
  | .jpV0 nnn => Laws.EncodesRow.jpV0 nnn mode
  | .rndVxNn x nn => Laws.EncodesRow.rndVxNn x nn mode
  | .drw x y n => Laws.EncodesRow.drw x y n mode
  | .skp x => Laws.EncodesRow.skp x mode
  | .sknp x => Laws.EncodesRow.sknp x mode
  | .ldVxDt x => Laws.EncodesRow.ldVxDt x mode
  | .ldVxK x => Laws.EncodesRow.ldVxK x mode
  | .ldDtVx x => Laws.EncodesRow.ldDtVx x mode
  | .ldStVx x => Laws.EncodesRow.ldStVx x mode
  | .addIVx x => Laws.EncodesRow.addIVx x mode
  | .ldFVx x => Laws.EncodesRow.ldFVx x mode
  | .ldBVx x => Laws.EncodesRow.ldBVx x mode
  | .ldMemVx x => Laws.EncodesRow.ldMemVx x mode
  | .ldVxMem x => Laws.EncodesRow.ldVxMem x mode

theorem accepts_of_decodeWord_strict (h : decodeWord .strict op = some i) :
    (opcodeRow i).accepts .strict op = true := by
  rw [← encode_of_decodeWord_strict h]
  exact encodesRow .strict i

theorem accepts_of_decodeFamily0_lowField (hf : fieldFamily op = 0#4) (h : decodeFamily0 .lowField op = some i) :
    (opcodeRow i).accepts .lowField op = true := by
  simp only [decodeFamily0] at h
  split at h
  case h_1 hn =>
    cases h
    have hn : fieldN op = 0#4 := BitVec.eq_of_toNat_eq hn
    exact Laws.accepts_of_lowNibble rfl (by rw [hf, hn]; rfl)
  case h_2 hn =>
    cases h
    have hn : fieldN op = 0xE#4 := BitVec.eq_of_toNat_eq hn
    exact Laws.accepts_of_lowNibble rfl (by rw [hf, hn]; rfl)
  case h_3 => cases h

/-- A family whose row frees `n` under low_field is accepted whole; any other decodes as under strict. -/
theorem accepts_of_decodeWord_lowField (h : decodeWord .lowField op = some i) :
    (opcodeRow i).accepts .lowField op = true := by
  by_cases h0 : fieldFamily op = 0#4
  · exact accepts_of_decodeFamily0_lowField h0 ((decodeWord_family0 h0).symm.trans h)
  by_cases h5 : fieldFamily op = 5#4
  · rw [decodeWord_family5 h5, decodePair_lowField] at h
    cases h
    exact Laws.accepts_of_family rfl (by rw [h5]; rfl)
  by_cases h9 : fieldFamily op = 9#4
  · rw [decodeWord_family9 h9, decodePair_lowField] at h
    cases h
    exact Laws.accepts_of_family rfl (by rw [h9]; rfl)
  rw [decodeWord_lowField_eq_strict (fun e => h0 (BitVec.eq_of_toNat_eq e)) (fun e => h5 (BitVec.eq_of_toNat_eq e))
    (fun e => h9 (BitVec.eq_of_toNat_eq e))] at h
  rw [← encode_of_decodeWord_strict h]
  exact encodesRow .lowField i

theorem accepts_of_decodeWord (h : decodeWord mode op = some i) : (opcodeRow i).accepts mode op = true :=
  match mode with
  | .strict => accepts_of_decodeWord_strict h
  | .lowField => accepts_of_decodeWord_lowField h

namespace Statements

/-- Under the mode every word the row accepts decodes. -/
def rowDecodes (mode : DecodeMode) (r : OpcodeRow) : Prop :=
  ∃ build, decodesBy mode (r.maskOf mode) (r.matchOf mode) build

theorem rowDecodes_plain {pattern mask : Word} {build : Word → Instr} (h : decodesBy mode mask pattern build) :
    rowDecodes mode (.plain pattern mask) :=
  match mode with
  | .strict => ⟨build, h⟩
  | .lowField => ⟨build, h⟩

theorem rowDecodes_cls (mode : DecodeMode) : rowDecodes mode (opcodeRow .cls) :=
  match mode with
  | .strict => ⟨fun _ => .cls, decodesBy_of_word rfl⟩
  | .lowField => ⟨fun _ => .cls, decodesBy_of_lowNibble 0#4 0#4 fun _ hf hn => by
      simp [decodeWord_family0 hf, decodeFamily0, hn]⟩

theorem rowDecodes_ret (mode : DecodeMode) : rowDecodes mode (opcodeRow .ret) :=
  match mode with
  | .strict => ⟨fun _ => .ret, decodesBy_of_word rfl⟩
  | .lowField => ⟨fun _ => .ret, decodesBy_of_lowNibble 0#4 0xE#4 fun _ hf hn => by
      simp [decodeWord_family0 hf, decodeFamily0, hn]⟩

theorem rowDecodes_seVxVy (mode : DecodeMode) (x y : Nibble) : rowDecodes mode (opcodeRow (.seVxVy x y)) :=
  match mode with
  | .strict => ⟨_, decodesBy_of_lowNibble 5#4 0#4 fun _ hf hn =>
      (decodeWord_family5 hf).trans (decodePair_strict hn _)⟩
  | .lowField => ⟨_, decodesBy_of_family 5#4 fun _ hf => decodeWord_family5 hf⟩

theorem rowDecodes_sneVxVy (mode : DecodeMode) (x y : Nibble) : rowDecodes mode (opcodeRow (.sneVxVy x y)) :=
  match mode with
  | .strict => ⟨_, decodesBy_of_lowNibble 9#4 0#4 fun _ hf hn =>
      (decodeWord_family9 hf).trans (decodePair_strict hn _)⟩
  | .lowField => ⟨_, decodesBy_of_family 9#4 fun _ hf => decodeWord_family9 hf⟩

theorem rowDecodes_opcodeRow (mode : DecodeMode) (i : Instr) : rowDecodes mode (opcodeRow i) := by
  cases i with
  | cls => exact rowDecodes_cls mode
  | ret => exact rowDecodes_ret mode
  | jp => exact rowDecodes_plain (decodesBy_of_family 1#4 fun _ => decodeWord_family1)
  | call => exact rowDecodes_plain (decodesBy_of_family 2#4 fun _ => decodeWord_family2)
  | seVxNn => exact rowDecodes_plain (decodesBy_of_family 3#4 fun _ => decodeWord_family3)
  | sneVxNn => exact rowDecodes_plain (decodesBy_of_family 4#4 fun _ => decodeWord_family4)
  | seVxVy x y => exact rowDecodes_seVxVy mode x y
  | ldVxNn => exact rowDecodes_plain (decodesBy_of_family 6#4 fun _ => decodeWord_family6)
  | addVxNn => exact rowDecodes_plain (decodesBy_of_family 7#4 fun _ => decodeWord_family7)
  | ldVxVy => exact rowDecodes_plain (decodesBy_of_family8 0#4 fun _ => decodeFamily8_ld)
  | orVxVy => exact rowDecodes_plain (decodesBy_of_family8 1#4 fun _ => decodeFamily8_or)
  | andVxVy => exact rowDecodes_plain (decodesBy_of_family8 2#4 fun _ => decodeFamily8_and)
  | xorVxVy => exact rowDecodes_plain (decodesBy_of_family8 3#4 fun _ => decodeFamily8_xor)
  | addVxVy => exact rowDecodes_plain (decodesBy_of_family8 4#4 fun _ => decodeFamily8_add)
  | subVxVy => exact rowDecodes_plain (decodesBy_of_family8 5#4 fun _ => decodeFamily8_sub)
  | shrVx => exact rowDecodes_plain (decodesBy_of_family8 6#4 fun _ => decodeFamily8_shr)
  | subnVxVy => exact rowDecodes_plain (decodesBy_of_family8 7#4 fun _ => decodeFamily8_subn)
  | shlVx => exact rowDecodes_plain (decodesBy_of_family8 0xE#4 fun _ => decodeFamily8_shl)
  | sneVxVy x y => exact rowDecodes_sneVxVy mode x y
  | ldINnn => exact rowDecodes_plain (decodesBy_of_family 0xA#4 fun _ => decodeWord_familyA)
  | jpV0 => exact rowDecodes_plain (decodesBy_of_family 0xB#4 fun _ => decodeWord_familyB)
  | rndVxNn => exact rowDecodes_plain (decodesBy_of_family 0xC#4 fun _ => decodeWord_familyC)
  | drw => exact rowDecodes_plain (decodesBy_of_family 0xD#4 fun _ => decodeWord_familyD)
  | skp => exact rowDecodes_plain (decodesBy_of_familyE 0x9E#8 fun _ => decodeFamilyE_skp)
  | sknp => exact rowDecodes_plain (decodesBy_of_familyE 0xA1#8 fun _ => decodeFamilyE_sknp)
  | ldVxDt => exact rowDecodes_plain (decodesBy_of_familyF 0x07#8 fun _ => decodeFamilyF_ldVxDt)
  | ldVxK => exact rowDecodes_plain (decodesBy_of_familyF 0x0A#8 fun _ => decodeFamilyF_ldVxK)
  | ldDtVx => exact rowDecodes_plain (decodesBy_of_familyF 0x15#8 fun _ => decodeFamilyF_ldDtVx)
  | ldStVx => exact rowDecodes_plain (decodesBy_of_familyF 0x18#8 fun _ => decodeFamilyF_ldStVx)
  | addIVx => exact rowDecodes_plain (decodesBy_of_familyF 0x1E#8 fun _ => decodeFamilyF_addIVx)
  | ldFVx => exact rowDecodes_plain (decodesBy_of_familyF 0x29#8 fun _ => decodeFamilyF_ldFVx)
  | ldBVx => exact rowDecodes_plain (decodesBy_of_familyF 0x33#8 fun _ => decodeFamilyF_ldBVx)
  | ldMemVx => exact rowDecodes_plain (decodesBy_of_familyF 0x55#8 fun _ => decodeFamilyF_ldMemVx)
  | ldVxMem => exact rowDecodes_plain (decodesBy_of_familyF 0x65#8 fun _ => decodeFamilyF_ldVxMem)

/-- A word that a row accepts is not UNKNOWN. -/
theorem decodeWord_ne_none_of_accepts (h : (opcodeRow i).accepts mode op = true) : decodeWord mode op ≠ none := by
  obtain ⟨build, hbuild⟩ := rowDecodes_opcodeRow mode i
  rw [hbuild op (eq_of_beq h)]
  exact Option.some_ne_none _

end Statements

theorem opcodeRow_mem_opcodeMap (i : Instr) : opcodeRow i ∈ opcodeMap := by
  cases i <;> simp [opcodeMap, oneOfEach, oneOfEachFlow, oneOfEachAlu, oneOfEachMisc, opcodeRow]

theorem decodeWord_eq_none_iff :
    decodeWord mode op = none ↔ ∀ row ∈ opcodeMap, row.accepts mode op = false := by
  constructor
  · intro hnone row hrow
    obtain ⟨i, -, rfl⟩ := List.mem_map.mp hrow
    exact Bool.eq_false_iff.mpr fun hacc => Statements.decodeWord_ne_none_of_accepts hacc hnone
  · intro hoff
    refine Option.eq_none_iff_forall_ne_some.mpr fun i hi => ?_
    simpa [hoff _ (opcodeRow_mem_opcodeMap i)] using accepts_of_decodeWord hi

end Sys2Proof

open Sys2Proof Sys2Proof.Machine Sys2Proof.Statements

/-- Settles O1: each field of the encoded word is the operand that was put there, and the two bytes make up the word. -/
theorem decodeOfEncodeIsIdentity : Obligations.DecodeOfEncodeIsIdentity := by
  refine fun mode i => ⟨decodeWord_encode mode i, fun rest => ?_⟩
  simp [encodeBytes, decode, decodeWord_encode]

/-- Settles O2: a decoded word is put together again from its fields, the bits the row fixes among them. -/
theorem encodeOfStrictDecodeIsIdentity : Obligations.EncodeOfStrictDecodeIsIdentity :=
  fun _ _ => encode_of_decodeWord_strict

/-- Settles O3: a decoded word meets its instruction's row, and each row's words decode. -/
theorem decodeFollowsOpcodeMap : Obligations.DecodeFollowsOpcodeMap :=
  fun _ _ => ⟨fun _ => accepts_of_decodeWord, decodeWord_eq_none_iff⟩

/-- Settles O4: eight words, evaluated under each mode. -/
theorem writtenOutWordsDecode : Obligations.WrittenOutWordsDecode := by
  intro mode
  cases mode <;> decide

end

section
/-! PROOF. What execute and a whole step can answer, said once: `completed` is the state a completed execute leaves,
`StepResult` the three ends of a running core's cycle. -/

namespace Sys2Proof.Machine

open Statements

/-! ### The shared shapes of completion, field by field -/

section finishReg
variable (s : State) (x : Nibble) (b : Byte)
@[simp] theorem State.finishReg_i : (s.finishReg x b).i = s.i := rfl
@[simp] theorem State.finishReg_pc : (s.finishReg x b).pc = s.pc + 2#16 := rfl
@[simp] theorem State.finishReg_sp : (s.finishReg x b).sp = s.sp := rfl
@[simp] theorem State.finishReg_stack : (s.finishReg x b).stack = s.stack := rfl
@[simp] theorem State.finishReg_dt : (s.finishReg x b).dt = s.dt := rfl
@[simp] theorem State.finishReg_st : (s.finishReg x b).st = s.st := rfl
@[simp] theorem State.finishReg_mem : (s.finishReg x b).mem = s.mem := rfl
@[simp] theorem State.finishReg_fb : (s.finishReg x b).fb = s.fb := rfl
end finishReg

section finishAlu
variable (s : State) (x : Nibble) (res : AluResult)
@[simp] theorem State.finishAlu_i : (s.finishAlu x res).i = s.i := by simp [State.finishAlu]
@[simp] theorem State.finishAlu_pc : (s.finishAlu x res).pc = s.pc + 2#16 := by simp [State.finishAlu]
@[simp] theorem State.finishAlu_sp : (s.finishAlu x res).sp = s.sp := by simp [State.finishAlu]
@[simp] theorem State.finishAlu_stack : (s.finishAlu x res).stack = s.stack := by simp [State.finishAlu]
@[simp] theorem State.finishAlu_dt : (s.finishAlu x res).dt = s.dt := by simp [State.finishAlu]
@[simp] theorem State.finishAlu_st : (s.finishAlu x res).st = s.st := by simp [State.finishAlu]
@[simp] theorem State.finishAlu_mem : (s.finishAlu x res).mem = s.mem := by simp [State.finishAlu]
@[simp] theorem State.finishAlu_fb : (s.finishAlu x res).fb = s.fb := by simp [State.finishAlu]
end finishAlu

/-- `Fx0A` after the keypad's answer: the key's number into V[x], or nothing (R183). -/
def State.takeKey (s : State) (x : Nibble) : Option Nat → State
  | some k => s.finishReg x (BitVec.ofNat 8 k)
  | none => s

section takeKey
variable (s : State) (x : Nibble) (k : Option Nat)
@[simp] theorem State.takeKey_i : (s.takeKey x k).i = s.i := by cases k <;> rfl
@[simp] theorem State.takeKey_sp : (s.takeKey x k).sp = s.sp := by cases k <;> rfl
@[simp] theorem State.takeKey_stack : (s.takeKey x k).stack = s.stack := by cases k <;> rfl
@[simp] theorem State.takeKey_dt : (s.takeKey x k).dt = s.dt := by cases k <;> rfl
@[simp] theorem State.takeKey_st : (s.takeKey x k).st = s.st := by cases k <;> rfl
@[simp] theorem State.takeKey_mem : (s.takeKey x k).mem = s.mem := by cases k <;> rfl
@[simp] theorem State.takeKey_fb : (s.takeKey x k).fb = s.fb := by cases k <;> rfl
end takeKey

/-! ### Execute -/

/-- The state execute leaves where no fault is taken: each instruction's meaning on the near side of its check. -/
def completed (i : Instr) (s : State) : State :=
  match i with
  | .cls => (s.setFb Framebuffer.clear).advance 2#16
  | .ret => s.pop.jumpTo (s.stackAt s.pop.sp.val + 2#16)
  | .jp nnn => s.jumpTo (addrOperand nnn)
  | .call nnn => (s.push s.pc).jumpTo (addrOperand nnn)
  | .seVxNn x nn => s.skipIf (s.getV x == nn)
  | .sneVxNn x nn => s.skipIf (s.getV x != nn)
  | .seVxVy x y => s.skipIf (s.getV x == s.getV y)
  | .ldVxNn x nn => s.finishReg x nn
  | .addVxNn x nn => s.finishReg x (trunc8 ((s.getV x).toNat + nn.toNat))
  | .ldVxVy x y => s.finishReg x (s.getV y)
  | .orVxVy x y => s.finishReg x (s.getV x ||| s.getV y)
  | .andVxVy x y => s.finishReg x (s.getV x &&& s.getV y)
  | .xorVxVy x y => s.finishReg x (s.getV x ^^^ s.getV y)
  | .addVxVy x y => s.finishAlu x (aluAdd (s.getV x) (s.getV y))
  | .subVxVy x y => s.finishAlu x (aluSub (s.getV x) (s.getV y))
  | .shrVx x _ => s.finishAlu x (aluShr (s.getV x))
  | .subnVxVy x y => s.finishAlu x (aluSub (s.getV y) (s.getV x))
  | .shlVx x _ => s.finishAlu x (aluShl (s.getV x))
  | .sneVxVy x y => s.skipIf (s.getV x != s.getV y)
  | .ldINnn nnn => (s.setI (addrOperand nnn)).advance 2#16
  | .jpV0 nnn => s.jumpTo (addrOperand nnn + s.wideV 0#4)
  | .rndVxNn x nn => s.finishReg x (nn &&& s.rnd)
  | .drw x y n => ((s.setFb (s.drawSprite x y n).1).setV flagReg (flagByte (s.drawSprite x y n).2)).advance 2#16
  | .skp x => s.skipIf (s.isPressed (s.getV x).toNat)
  | .sknp x => s.skipIf (!s.isPressed (s.getV x).toNat)
  | .ldVxDt x => s.finishReg x s.dt
  | .ldVxK x => s.takeKey x s.pressedKey
  | .ldDtVx x => (s.setDt (s.getV x)).advance 2#16
  | .ldStVx x => (s.setSt (s.getV x)).advance 2#16
  | .addIVx x => (s.setI (BitVec.ofNat 16 (s.indexSum x % 0x10000))).advance 2#16
  | .ldFVx x => (s.setI (glyphAddr (s.fontDigit x))).advance 2#16
  | .ldBVx x => (s.setMem (Memory.writeBlock s.mem s.i.toNat (bcdDigits (s.getV x)))).advance 2#16
  | .ldMemVx x =>
    ((s.setMem (Memory.writeBlock s.mem s.i.toNat (s.regBytes x))).setI (s.indexAfterBlock x)).advance 2#16
  | .ldVxMem x => ((s.loadRegs x s.i.toNat).setI (s.indexAfterBlock x)).advance 2#16

variable {i : Instr} {s t : State}

theorem exec_ldVxK (x : Nibble) (s : State) : exec (.ldVxK x) s = .next (s.takeKey x s.pressedKey) := by
  cases h : s.pressedKey with
  | some k => exact exec_ldVxK_of_pressed h
  | none => exact exec_ldVxK_of_none_pressed h

theorem exec_drw_of_fits {x y n : Nibble} (h : n = 0#4 ∨ s.i.toNat + n.toNat - 1 ≤ 0xFFF) :
    exec (.drw x y n) s = .next (completed (.drw x y n) s) := by
  refine if_neg fun ⟨hn, hoob⟩ => ?_
  rw [State.blockFits_eq_false] at hoob
  obtain rfl | hle := h
  · exact hn rfl
  · omega

/-- On the near side of its check an instruction completes. -/
theorem exec_of_not_faultCondition (h : ¬faultCondition i s) : exec i s = .next (completed i s) := by
  cases i with
  | ret => exact exec_ret_of_pos (Nat.pos_of_ne_zero h)
  | call nnn => exact exec_call_of_lt nnn (Nat.lt_of_le_of_ne (Nat.le_of_lt_succ s.sp.isLt) h)
  | drw x y n =>
    refine exec_drw_of_fits ((Decidable.em (n = 0#4)).imp_right fun hn => ?_)
    exact Nat.not_lt.mp fun hoob => h ⟨hn, hoob⟩
  | skp x => exact exec_skp_of_le (Nat.not_lt.mp h)
  | sknp x => exact exec_sknp_of_le (Nat.not_lt.mp h)
  | ldVxK x => exact exec_ldVxK x s
  | addIVx x =>
    refine exec_addIVx_of_completes ?_
    cases hov : s.cfg.iOverflow with
    | fault => exact .inl (Nat.not_lt.mp fun hgt => h ⟨hgt, hov⟩)
    | wrap => exact .inr rfl
  | ldBVx x => exact exec_ldBVx_of_fits (Nat.not_lt.mp h)
  | ldMemVx x => exact exec_ldMemVx_of_fits (Nat.not_lt.mp h)
  | ldVxMem x => exact exec_ldVxMem_of_fits (Nat.not_lt.mp h)
  | _ => rfl

/-- The codes that execute itself does not raise: the fetch's and the program load's (R202). -/
def raisedOutsideExec : List FaultCode := [.fetchOob, .oddPc, .loadOverflow]

/-- On the far side of its check an instruction raises a code of its own. -/
theorem exec_of_faultCondition (h : faultCondition i s) :
    ∃ code addr, code ∉ raisedOutsideExec ∧ exec i s = raiseFatal code addr s := by
  cases i with
  | ret => exact ⟨_, _, by decide, exec_ret_of_empty h⟩
  | call nnn => exact ⟨_, _, by decide, exec_call_of_full nnn h⟩
  | drw x y n => exact ⟨_, _, by decide, exec_drw_of_oob h.1 h.2⟩
  | skp x => exact ⟨_, _, by decide, exec_skp_of_gt h⟩
  | sknp x => exact ⟨_, _, by decide, exec_sknp_of_gt h⟩
  | addIVx x => exact ⟨_, _, by decide, exec_addIVx_of_overflow h.1 h.2⟩
  | ldBVx x => exact ⟨_, _, by decide, exec_ldBVx_of_oob h⟩
  | ldMemVx x => exact ⟨_, _, by decide, exec_ldMemVx_of_oob h⟩
  | ldVxMem x => exact ⟨_, _, by decide, exec_ldVxMem_of_oob h⟩
  | _ => exact h.elim

/-- What execute can answer, by the instruction's own condition. -/
theorem exec_outcome (h : exec i s = .next t) :
    (faultCondition i s ∧ ∃ code addr, code ∉ raisedOutsideExec ∧ t = s.takeFault code (some s.opc) addr) ∨
      (¬faultCondition i s ∧ t = completed i s) := by
  by_cases hc : faultCondition i s
  · obtain ⟨code, addr, hcode, hexec⟩ := exec_of_faultCondition hc
    exact .inl ⟨hc, code, addr, hcode, Host.Outcome.next.inj (h.symm.trans hexec)⟩
  · exact .inr ⟨hc, Host.Outcome.next.inj (h.symm.trans (exec_of_not_faultCondition hc))⟩

theorem sameStatus_completed (i : Instr) (s : State) : SameStatus s (completed i s) := by
  cases i with
  | ldVxNn | addVxNn | ldVxVy | orVxVy | andVxVy | xorVxVy | rndVxNn | ldVxDt => exact sameStatus_reg s _ _
  | addVxVy | subVxVy | shrVx | subnVxVy | shlVx => exact sameStatus_alu s _ _
  | seVxNn | sneVxNn | seVxVy | sneVxVy | skp | sknp => exact sameStatus_skip s _
  | ldVxK x =>
    rw [completed]
    cases s.pressedKey with
    | some k => exact sameStatus_reg s _ _
    | none => simp [SameStatus, State.takeKey]
  | _ => simp [SameStatus, completed]

@[simp] theorem completed_halted (i : Instr) (s : State) : (completed i s).halted = s.halted :=
  (sameStatus_completed i s).2.1

theorem exec_completes (h : exec i s = .next t) (ht : t.halted = false) :
    ¬faultCondition i s ∧ t = completed i s := by
  obtain ⟨-, code, addr, -, rfl⟩ | hdone := exec_outcome h
  · cases ht
  · exact hdone

/-! ### The step -/

/-- Execute of what the cycle decoded: an instruction that completes, or the event of an UNKNOWN word (R210). -/
def executed : Option Instr → State → State
  | some i, s => completed i s
  | none, s => s.emitUnknown

/-- How a cycle of a running core can end (R90). -/
inductive StepResult (s : State) : State → Prop
  /-- The fetch takes a fault (R72, R73). -/
  | fetchFault (code : FaultCode) (hfetch : ¬s.fetchable) (hcode : code = .fetchOob ∨ code = .oddPc) :
    StepResult s (s.takeFault code none s.pc.toNat)
  /-- The decoded instruction takes a fault (R201). -/
  | execFault (i : Instr) (code : FaultCode) (addr : Nat) (hfetch : s.fetchable) (hdec : s.decoded = some i)
    (hcode : code ∉ raisedOutsideExec) : StepResult s (s.fetched.takeFault code (some s.fetchWord) addr)
  /-- The cycle completes: the tick and AWAIT follow. -/
  | completes (hfetch : s.fetchable) (hsafe : ∀ i, s.decoded = some i → ¬faultCondition i s.fetched) :
    StepResult s ((executed s.decoded s.fetched).endCycle (s.decoded.any fun i => waitsForKey i s.fetched))

theorem fetchFault_eq_none_iff : s.fetchFault = none ↔ s.fetchable :=
  fetchFault_none.trans (and_congr_left' Nat.lt_succ_iff)

theorem fetchFault_code {code : FaultCode} (h : s.fetchFault = some code) : code = .fetchOob ∨ code = .oddPc := by
  unfold State.fetchFault at h
  split at h
  · exact .inl (Option.some.inj h).symm
  · split at h
    · exact .inr (Option.some.inj h).symm
    · cases h

theorem executed_halted (d : Option Instr) (s : State) : (executed d s).halted = s.halted :=
  match d with
  | some i => completed_halted i s
  | none => rfl

/-- Every step of the model ends in one of the three ways. -/
theorem step_result (h : step s = .next t) : s.running ∧ StepResult s t := by
  obtain ⟨hrun, hcases⟩ := step_cases h
  refine ⟨hrun, ?_⟩
  obtain ⟨code, hf, rfl⟩ | ⟨hf, hdec, rfl⟩ | ⟨i, u, hf, hdec, hexec, rfl⟩ := hcases
  · refine .fetchFault code (fun hfetch => ?_) (fetchFault_code hf)
    rw [fetchFault_eq_none_iff.mpr hfetch] at hf
    cases hf
  · have hdec : s.decoded = none := hdec
    have hdone := StepResult.completes (fetchFault_eq_none_iff.mp hf) (by simp [hdec])
    rwa [hdec] at hdone
  · have hfetch := fetchFault_eq_none_iff.mp hf
    have hdec : s.decoded = some i := hdec
    obtain ⟨-, code, addr, hcode, rfl⟩ | ⟨hsafe, rfl⟩ := exec_outcome hexec
    · exact .execFault i code addr hfetch hdec hcode
    · have hdone := StepResult.completes hfetch fun j hj => Option.some.inj (hdec.symm.trans hj) ▸ hsafe
      rw [hdec] at hdone
      simpa [executed, hrun] using hdone

/-- What a completed step leaves. -/
theorem step_completes (h : step s = .next t) (ht : t.halted = false) :
    t = (executed s.decoded s.fetched).endCycle (s.decoded.any fun i => waitsForKey i s.fetched) := by
  obtain ⟨-, _ | _ | _⟩ := step_result h
  · cases ht
  · cases ht
  · rfl

end Sys2Proof.Machine
end

section
/-! PROOF. What every step keeps, counts and records: the timers, AWAIT, EVENTS, the fault record, and what each
instruction leaves unchanged. -/

namespace Sys2Proof.Machine

open Statements

/-! ### What execute leaves unchanged, by the instruction the cycle decoded -/

section frame
variable {d : Option Instr} {s : State}

theorem executed_stack (hret : d ≠ some .ret) (hcall : ∀ nnn, d ≠ some (.call nnn)) :
    (executed d s).sp = s.sp ∧ (executed d s).stack = s.stack := by
  obtain _ | i := d
  · exact ⟨rfl, rfl⟩
  · cases i with
    | ret => exact absurd rfl hret
    | call nnn => exact absurd rfl (hcall nnn)
    | _ => simp [executed, completed]

theorem executed_fb (hcls : d ≠ some .cls) (hdrw : ∀ x y n, d ≠ some (.drw x y n)) :
    (executed d s).fb = s.fb := by
  obtain _ | i := d
  · rfl
  · cases i with
    | cls => exact absurd rfl hcls
    | drw x y n => exact absurd rfl (hdrw x y n)
    | _ => simp [executed, completed]

/-- The writers of I (R39). -/
def WritesIndex (i : Instr) : Prop :=
  (∃ nnn, i = .ldINnn nnn) ∨ (∃ x, i = .addIVx x) ∨ (∃ x, i = .ldFVx x) ∨ (∃ x, i = .ldMemVx x) ∨
    ∃ x, i = .ldVxMem x

theorem executed_i (h : ∀ i, d = some i → ¬WritesIndex i) : (executed d s).i = s.i := by
  obtain _ | i := d
  · rfl
  · have hi := h i rfl
    cases i with
    | ldINnn | addIVx | ldFVx | ldMemVx | ldVxMem => simp [WritesIndex] at hi
    | _ => simp [executed, completed]

theorem executed_mem (hbcd : ∀ x, d ≠ some (.ldBVx x)) (hdump : ∀ x, d ≠ some (.ldMemVx x)) :
    (executed d s).mem = s.mem := by
  obtain _ | i := d
  · rfl
  · cases i with
    | ldBVx x => exact absurd rfl (hbcd x)
    | ldMemVx x => exact absurd rfl (hdump x)
    | _ => simp [executed, completed]

theorem executed_dt (h : ∀ x, d ≠ some (.ldDtVx x)) : (executed d s).dt = s.dt := by
  obtain _ | i := d
  · rfl
  · cases i with
    | ldDtVx x => exact absurd rfl (h x)
    | _ => simp [executed, completed]

theorem executed_st (h : ∀ x, d ≠ some (.ldStVx x)) : (executed d s).st = s.st := by
  obtain _ | i := d
  · rfl
  · cases i with
    | ldStVx x => exact absurd rfl (h x)
    | _ => simp [executed, completed]

theorem executed_key (d : Option Instr) (s : State) : (executed d s).key = s.key := by
  obtain _ | i := d
  · rfl
  · obtain ⟨-, -, -, -, -, hkey, -⟩ := sameStatus_completed i s
    exact hkey

theorem executed_cfg (d : Option Instr) (s : State) : (executed d s).cfg = s.cfg := by
  obtain _ | i := d
  · rfl
  · obtain ⟨-, -, -, -, -, -, -, hcfg, -⟩ := sameStatus_completed i s
    exact hcfg

theorem executed_fault (d : Option Instr) (s : State) : (executed d s).fault = s.fault := by
  obtain _ | i := d
  · rfl
  · obtain ⟨-, -, hfault, -⟩ := sameStatus_completed i s
    exact hfault

theorem completed_events (i : Instr) (s : State) : (completed i s).events = s.events := by
  obtain ⟨-, -, -, hevents, -⟩ := sameStatus_completed i s
  exact hevents

/-- A register that R33 does not list for the instruction keeps its value. -/
theorem completed_getV {i : Instr} {y : Nibble} (h : ¬mayWriteReg i y) : (completed i s).getV y = s.getV y := by
  have hreg {x : Nibble} {b : Byte} (hy : y ≠ x) : (s.finishReg x b).getV y = s.getV y := by
    simp [State.finishReg, State.getV_setV, hy]
  have halu {x : Nibble} {res : AluResult} (hy : ¬(y = x ∨ y = 0xF#4)) : (s.finishAlu x res).getV y = s.getV y := by
    have ⟨hx, hf⟩ := not_or.mp hy
    simp [State.finishAlu, State.getV_writeRF, hx, hf]
  cases i with
  | ldVxNn | addVxNn | ldVxVy | orVxVy | andVxVy | xorVxVy | rndVxNn | ldVxDt => exact hreg h
  | addVxVy | subVxVy | shrVx | subnVxVy | shlVx => exact halu h
  | drw x y' n => simp [completed, State.getV_setV, show y ≠ flagReg from h]
  | ldVxK x =>
    rw [completed]
    cases s.pressedKey with
    | some k => exact hreg h
    | none => rfl
  | ldVxMem x => simp [completed, State.getV_loadRegs, show ¬y.toNat ≤ x.toNat from h]
  | _ => simp [completed]

end frame

/-! ### Cycles (R90) -/

section cycle
variable {s t : State} {i : Instr}

theorem waitsForKey_fetched (i : Instr) (s : State) : waitsForKey i s.fetched = waitsForKey i s := by
  cases i <;> rfl

theorem waitsForKey_iff : waitsForKey i s = true ↔ (∃ x, i = .ldVxK x) ∧ ∀ k < 16, s.isPressed k = false := by
  cases i with
  | ldVxK x => simp [waitsForKey, State.pressedKey_none]
  | _ => simp [waitsForKey]

/-- A running core's step is execute of what it decoded, and then, unless that faulted, the tick and AWAIT. -/
theorem step_of_decoded_some (hrun : s.running) (hfetch : s.fetchable) (hdec : s.decoded = some i)
    (hexec : exec i s.fetched = .next t) :
    step s = .next (if t.halted then t else t.endCycle (waitsForKey i s)) := by
  rw [State.decoded] at hdec
  rw [step_of_fetchFault_none hrun hfetch.fetchFault_eq_none]
  simp only [runFetched, State.fetched_cfg, State.fetched_opc, hdec, hexec, finishCycle, waitsForKey_fetched]
  split <;> rfl

theorem step_dt (h : step s = .next t) (ht : t.halted = false) (hdec : ∀ x, s.decoded ≠ some (.ldDtVx x)) :
    t.dt.toNat = s.dt.toNat - 1 := by
  rw [step_completes h ht, State.endCycle_dt, executed_dt hdec, tickByte_toNat, State.fetched_dt]

theorem step_st (h : step s = .next t) (ht : t.halted = false) (hdec : ∀ x, s.decoded ≠ some (.ldStVx x)) :
    t.st.toNat = s.st.toNat - 1 := by
  rw [step_completes h ht, State.endCycle_st, executed_st hdec, tickByte_toNat, State.fetched_st]

theorem safeRun_dt : ∀ {k : Nat} {s t : State}, safeRun (fun d => ∀ x, d ≠ some (.ldDtVx x)) k s t →
    t.dt.toNat = s.dt.toNat - k
  | 0, _, _, h => congrArg (fun s => s.dt.toNat) h.symm
  | k + 1, s, t, ⟨u, hdec, hstep, hu, hrest⟩ =>
    calc t.dt.toNat
        = u.dt.toNat - k := safeRun_dt hrest
      _ = s.dt.toNat - 1 - k := by rw [step_dt hstep hu hdec]
      _ = s.dt.toNat - (k + 1) := by omega

/-- What a program load of a running core can answer (R233, R209). -/
theorem loadProgram_outcome {bytes : List Byte} (hrun : s.running) (h : s.loadProgram bytes = .next t) :
    t = s.takeFault .loadOverflow none 0x1000 ∨
      t = (s.setMem (Memory.writeBlock s.mem 0x200 bytes)).jumpTo 0x200#16 := by
  obtain hle | hgt := le_or_gt bytes.length 3584
  · rw [State.loadProgram_of_le hrun hle] at h
    exact .inr (Host.Outcome.next.inj h).symm
  · rw [State.loadProgram_of_gt hrun hgt] at h
    exact .inl (Host.Outcome.next.inj h).symm

end cycle

end Sys2Proof.Machine

open Sys2Proof Sys2Proof.Machine Sys2Proof.Statements

/-- Settles O12: no other instruction writes the timer, and the cycle's end ticks it. -/
theorem timersTickEveryCompletedCycle : Obligations.TimersTickEveryCompletedCycle :=
  fun _ _ h ht => ⟨step_dt h ht, step_st h ht⟩

/-- Settles O13, by induction on the number of cycles. -/
theorem delayTimerCountsDownOverCycles : Obligations.DelayTimerCountsDownOverCycles :=
  fun _ _ _ => safeRun_dt

/-- Settles O14: AWAIT is the wait of the decoded instruction, which only an `Fx0A` without a pressed key has. -/
theorem awaitReportsWaitingKeyInstruction : Obligations.AwaitReportsWaitingKeyInstruction := by
  intro s t h ht
  rw [step_completes h ht, State.endCycle_awaitKey]
  cases s.decoded with
  | none => simp
  | some i => simp [waitsForKey_fetched, waitsForKey_iff]

/-- Settles O18: no other completed execute moves SP or writes an entry. -/
theorem onlyCallAndReturnTouchStack : Obligations.OnlyCallAndReturnTouchStack := by
  intro s t h ht hret hcall
  rw [step_completes h ht]
  simpa using executed_stack (s := s.fetched) hret hcall

/-- Settles O19: no other completed execute writes the framebuffer. -/
theorem onlyClearAndDrawTouchDisplay : Obligations.OnlyClearAndDrawTouchDisplay := by
  intro s t h ht hcls hdrw
  rw [step_completes h ht]
  simpa using executed_fb (s := s.fetched) hcls hdrw

/-- Settles O20: were the decoded instruction none of the five, I would be as before. -/
theorem onlyIndexInstructionsWriteIndex : Obligations.OnlyIndexInstructionsWriteIndex := by
  intro s t h ht hi
  by_contra hnone
  have hkeep : (executed s.decoded s.fetched).i = s.i :=
    executed_i fun i hdec hwrites => hnone ⟨i, hdec, hwrites⟩
  exact hi (by rw [step_completes h ht, State.endCycle_i, hkeep])

/-- Settles O21: were the decoded instruction neither store, memory would be as before. -/
theorem onlyStoresWriteMemory : Obligations.OnlyStoresWriteMemory := by
  intro s t a h ht hread
  by_contra hnone
  have hmem : (executed s.decoded s.fetched).mem = s.mem :=
    executed_mem (fun x hx => hnone ⟨x, .inl hx⟩) fun x hx => hnone ⟨x, .inr hx⟩
  exact hread (by rw [step_completes h ht, State.endCycle_mem, hmem])

/-- Settles O22: a completed execute leaves every register R33 does not list for it. -/
theorem onlyListedInstructionsWriteRegisters : Obligations.OnlyListedInstructionsWriteRegisters := by
  intro i s t y h ht hrun hne
  obtain ⟨-, rfl⟩ := exec_completes h (ht.trans hrun)
  by_contra hnot
  exact hne (completed_getV hnot)

/-- Settles O23: execute faults under the condition, and completes, which does not halt a running core, otherwise. -/
theorem onlyListedConditionsFault : Obligations.OnlyListedConditionsFault := by
  intro i s t hrun h
  obtain ⟨hc, code, addr, -, rfl⟩ | ⟨hc, rfl⟩ := exec_outcome h
  · simp [hc]
  · simp [hc, hrun]

/-- Settles O24: of the three ends of a cycle the completed one is not halted; the fetch's codes record no opcode, the
codes of execute record the fetched word. -/
theorem fatalFaultRecordsItsCycle : Obligations.FatalFaultRecordsItsCycle := by
  intro s t h ht
  obtain ⟨hrun, ⟨code, -, hcode⟩ | ⟨i, code, addr, -, -, hcode⟩ | -⟩ := step_result h
  · refine ⟨code, s.pc.toNat, fun e => ?_, ?_, faultKeeps_takeFault s _ _ _⟩
    · simp [e] at hcode
    · rw [if_pos hcode]
      exact faultTaken_takeFault s _ _ _
  · simp only [raisedOutsideExec, List.mem_cons, List.not_mem_nil, or_false, not_or] at hcode
    obtain ⟨hoob, hodd, hload⟩ := hcode
    refine ⟨code, addr, hload, ?_, faultKeeps_takeFault s.fetched _ _ _⟩
    rw [if_neg (not_or.mpr ⟨hoob, hodd⟩)]
    exact faultTaken_takeFault s.fetched _ _ _
  · rw [State.endCycle_halted, executed_halted] at ht
    exact absurd (ht.symm.trans hrun) (by decide)

/-- Settles O25: no end of a cycle touches either. -/
theorem stepLeavesKeysAndParameters : Obligations.StepLeavesKeysAndParameters := by
  intro s t h
  obtain ⟨-, _ | _ | _⟩ := step_result h
  · simp
  · simp
  · simp [executed_key, executed_cfg]

/-- Settles O26: a fault appends nothing, a decoded instruction neither; an UNKNOWN word appends its event. -/
theorem eventsOnlyAppend : Obligations.EventsOnlyAppend := by
  intro s t h
  obtain ⟨-, ⟨code, hfetch, -⟩ | ⟨i, code, addr, hfetch, hdec, -⟩ | ⟨hfetch, -⟩⟩ := step_result h
  · simp [hfetch]
  · simp [hdec]
  · cases hdec : s.decoded with
    | none => simp [hfetch, executed]
    | some i => simp [executed, completed_events]

/-- Settles O6: the state stated before execute is the fetched one, and the cycle's end is the stated record. -/
theorem stepRunsDecodedInstruction : Obligations.StepRunsDecodedInstruction := by
  intro s i hrun hfetch hdec
  obtain ⟨t, hexec⟩ := exec_next i s.fetched
  exact ⟨t, hexec, step_of_decoded_some hrun hfetch hdec hexec⟩

/-- Settles O8: below 0xFFF the parity check alone can fail, and only where the parameter says so. -/
theorem oddPcFaultsOnlyUnderParameter : Obligations.OddPcFaultsOnlyUnderParameter := by
  refine fun s hrun hodd hpc => ⟨fun hfault => ?_, fun hfetch => ?_⟩
  · have hf : s.fetchFault = some .oddPc := (if_neg (Nat.not_le.mpr hpc)).trans (if_pos ⟨hodd, hfault⟩)
    exact ⟨_, step_of_fetchFault_some hrun hf, faultTaken_takeFault s _ _ _⟩
  · exact step_of_fetchFault_none hrun (fetchFault_none.mpr ⟨hpc, by simp [hfetch]⟩)

/-- Settles O9: the step tests HALTED before anything else, and the reset record is not halted. -/
theorem haltedCoreHasNoStep : Obligations.HaltedCoreHasNoStep :=
  fun _ h => ⟨if_pos h, if_pos h, rfl⟩

/-- Settles O59: the state a fault leaves is `takeFault`'s; a completed execute or load of a running core does not halt
it. -/
theorem faultsKeepTimersAndKeys : Obligations.FaultsKeepTimersAndKeys := by
  refine fun s t hrun ht => ⟨fun i h => ?_, fun bytes h => ?_⟩
  · obtain ⟨-, code, addr, -, rfl⟩ | ⟨-, rfl⟩ := exec_outcome h
    · exact faultKeeps_takeFault s _ _ _
    · rw [completed_halted] at ht
      exact absurd (ht.symm.trans hrun) (by decide)
  · obtain rfl | rfl := loadProgram_outcome hrun h
    · exact faultKeeps_takeFault s _ _ _
    · exact absurd (ht.symm.trans hrun) (by decide)

end

section
/-! PROOF. The state invariant along steps and host moves (R37, R47), the parity of `pc` (R36), a call and its return
(R129), and the reset (R60). -/

namespace Sys2Proof.Machine

open Statements

/-! ### Where execute leaves `pc` and the occupied stack entries -/

section flow
variable {i : Instr} {s : State}

/-- The places a completed execute can leave `pc` (R20, R35): at P, past it, or at the target of a flow instruction. -/
theorem completed_pc (i : Instr) (s : State) :
    (∃ k ∈ [0#16, 2#16, 4#16], (completed i s).pc = s.pc + k) ∨
      (i = .ret ∧ (completed i s).pc = s.stackAt s.pop.sp.val + 2#16) ∨
      (∃ nnn, (i = .jp nnn ∨ i = .call nnn) ∧ (completed i s).pc = addrOperand nnn) ∨
      ∃ nnn, i = .jpV0 nnn ∧ (completed i s).pc = addrOperand nnn + s.wideV 0#4 := by
  have hskip (c : Bool) : ∃ k ∈ [0#16, 2#16, 4#16], (s.skipIf c).pc = s.pc + k := by
    cases c with
    | true => exact ⟨4#16, by decide, rfl⟩
    | false => exact ⟨2#16, by decide, rfl⟩
  cases i with
  | ret => exact .inr (.inl ⟨rfl, rfl⟩)
  | jp nnn => exact .inr (.inr (.inl ⟨nnn, .inl rfl, rfl⟩))
  | call nnn => exact .inr (.inr (.inl ⟨nnn, .inr rfl, rfl⟩))
  | jpV0 nnn => exact .inr (.inr (.inr ⟨nnn, rfl, rfl⟩))
  | seVxNn | sneVxNn | seVxVy | sneVxVy | skp | sknp => exact .inl (hskip _)
  | ldVxK x =>
    rw [completed]
    cases s.pressedKey with
    | some k => exact .inl ⟨2#16, by decide, rfl⟩
    | none => exact .inl ⟨0#16, by decide, (BitVec.add_zero s.pc).symm⟩
  | _ => exact .inl ⟨2#16, by decide, by simp [completed]⟩

/-- After a completed execute an occupied entry was occupied before, with the same content, or holds P (R40, R123). -/
theorem completed_stackAt (hsafe : ¬faultCondition i s) {k : Nat} (hk : k < (completed i s).sp.val) :
    (k < s.sp.val ∧ (completed i s).stackAt k = s.stackAt k) ∨ (completed i s).stackAt k = s.pc := by
  by_cases hret : i = .ret
  · subst hret
    have hsp : (completed .ret s).sp.val = s.sp.val - 1 := s.pop_sp_val
    exact .inl ⟨by omega, rfl⟩
  by_cases hcall : ∃ nnn, i = .call nnn
  · obtain ⟨nnn, rfl⟩ := hcall
    have hroom : s.sp.val < 16 := Nat.lt_of_le_of_ne (Nat.le_of_lt_succ s.sp.isLt) hsafe
    have hsp : (completed (.call nnn) s).sp.val = s.sp.val + 1 := s.push_sp_val s.pc hroom
    have hat : (completed (.call nnn) s).stackAt k = if k = s.sp.val then s.pc else s.stackAt k :=
      s.stackAt_push s.pc hroom k
    rw [hat]
    split
    · exact .inr rfl
    · exact .inl ⟨by omega, rfl⟩
  · have ⟨hsp, hstack⟩ := executed_stack (d := some i) (s := s) (fun e => hret (Option.some.inj e))
      fun nnn e => hcall ⟨nnn, Option.some.inj e⟩
    exact .inl ⟨hsp ▸ hk, congrArg (fun st : Vector Word 16 => st[k]?.getD 0#16) hstack⟩

/-- What holds of P and of every occupied entry goes on holding of every occupied entry. -/
theorem completed_stack_forall {p : Word → Prop} (hsafe : ¬faultCondition i s) (hpc : p s.pc)
    (hstack : ∀ k < s.sp.val, p (s.stackAt k)) : ∀ k < (completed i s).sp.val, p ((completed i s).stackAt k) := by
  intro k hk
  obtain ⟨hk', hat⟩ | hat := completed_stackAt hsafe hk
  · exact hat ▸ hstack k hk'
  · exact hat ▸ hpc

/-- A return that takes no fault resumes 2 above an occupied entry. -/
theorem State.pop_sp_lt (hsafe : ¬faultCondition .ret s) : s.pop.sp.val < s.sp.val := by
  rw [s.pop_sp_val]
  exact Nat.pred_lt hsafe

theorem completed_pc_le (hsafe : ¬faultCondition i s) (hpc : s.pc.toNat ≤ 0xFFE)
    (hstack : ∀ k < s.sp.val, (s.stackAt k).toNat ≤ 0xFFE) : (completed i s).pc.toNat ≤ 0x10FE := by
  obtain ⟨k, hk, e⟩ | ⟨rfl, e⟩ | ⟨nnn, -, e⟩ | ⟨nnn, -, e⟩ := completed_pc i s
  · have hk : k.toNat ≤ 4 := by fin_cases hk <;> decide
    rw [e, BitVec.toNat_add]
    omega
  · have hentry := hstack _ (State.pop_sp_lt hsafe)
    rw [e, BitVec.toNat_add, BitVec.toNat_ofNat]
    omega
  · have := nnn.isLt
    rw [e, addrOperand_toNat]
    omega
  · have := nnn.isLt
    have := (s.getV 0#4).isLt
    rw [e, addrOperand_add_wideV_toNat]
    omega

theorem completed_pc_even (hsafe : ¬faultCondition i s) (hpc : s.pc.toNat % 2 = 0)
    (hstack : ∀ k < s.sp.val, (s.stackAt k).toNat % 2 = 0)
    (hjump : ∀ nnn, (i = .jp nnn ∨ i = .call nnn) → nnn.toNat % 2 = 0)
    (hindexed : ∀ nnn, i = .jpV0 nnn → (nnn.toNat + (s.getV 0#4).toNat) % 2 = 0) :
    (completed i s).pc.toNat % 2 = 0 := by
  obtain ⟨k, hk, e⟩ | ⟨rfl, e⟩ | ⟨nnn, hi, e⟩ | ⟨nnn, hi, e⟩ := completed_pc i s
  · have hk : k.toNat % 2 = 0 := by fin_cases hk <;> decide
    rw [e, BitVec.toNat_add]
    omega
  · have hentry := hstack _ (State.pop_sp_lt hsafe)
    rw [e, BitVec.toNat_add, BitVec.toNat_ofNat]
    omega
  · rw [e, addrOperand_toNat]
    exact hjump nnn hi
  · rw [e, addrOperand_add_wideV_toNat]
    exact hindexed nnn hi

end flow

/-! ### The invariant -/

section invariant
variable {s t : State}

theorem Inv_takeFault (s : State) (code : FaultCode) (opcode : Option Word) (addr : Nat) :
    (s.takeFault code opcode addr).Inv where
  memory := by
    rw [State.takeFault_mem]
    exact Memory.ofBytes_wf _
  faultRecord := rfl
  addresses h := absurd h (by simp)

theorem completed_wf (i : Instr) (h : Memory.wf s.mem = true) : Memory.wf (completed i s).mem = true := by
  cases i with
  | ldBVx | ldMemVx => exact Memory.writeBlock_wf _ _ h
  | _ => simpa [completed] using h

theorem executed_wf (d : Option Instr) (h : Memory.wf s.mem = true) : Memory.wf (executed d s).mem = true :=
  match d with
  | some i => completed_wf i h
  | none => h

theorem Inv_fetched (h : s.Inv) : s.fetched.Inv := ⟨h.memory, h.faultRecord, h.addresses⟩

theorem Inv_endCycle (h : s.Inv) (waited : Bool) : (s.endCycle waited).Inv := ⟨h.memory, h.faultRecord, h.addresses⟩

theorem executed_addressesInRange {d : Option Instr} (hsafe : ∀ i, d = some i → ¬faultCondition i s)
    (hpc : s.pc.toNat ≤ 0xFFE) (hstack : ∀ k < s.sp.val, (s.stackAt k).toNat ≤ 0xFFE) :
    (executed d s).addressesInRange := by
  intro _
  obtain _ | i := d
  · refine ⟨?_, hstack⟩
    simp only [executed, State.emitUnknown_pc, BitVec.toNat_add, BitVec.toNat_ofNat]
    omega
  · exact ⟨completed_pc_le (hsafe i rfl) hpc hstack,
      completed_stack_forall (p := fun w => w.toNat ≤ 0xFFE) (hsafe i rfl) hpc hstack⟩

theorem executed_keeps_Inv {d : Option Instr} (hsafe : ∀ i, d = some i → ¬faultCondition i s)
    (hpc : s.pc.toNat ≤ 0xFFE) (hrun : s.running) (hinv : s.Inv) : (executed d s).Inv where
  memory := executed_wf d hinv.memory
  faultRecord := by
    rw [State.faultRecorded, executed_fault, executed_halted]
    exact hinv.faultRecord
  addresses := executed_addressesInRange hsafe hpc (hinv.addresses hrun).2

theorem step_keeps_Inv (hinv : s.Inv) (h : step s = .next t) : t.Inv := by
  obtain ⟨hrun, ⟨code, -, -⟩ | ⟨i, code, addr, -, -, -⟩ | ⟨hfetch, hsafe⟩⟩ := step_result h
  · exact Inv_takeFault s _ _ _
  · exact Inv_takeFault s.fetched _ _ _
  · exact Inv_endCycle (executed_keeps_Inv hsafe hfetch.1 hrun (Inv_fetched hinv)) _

/-- Where a reset and a program load put `pc` (R230, R233). -/
theorem programStart_le : (0x200#16 : Word).toNat ≤ 0x10FE := by decide

theorem Inv_initializeCore (s : State) : s.initializeCore.Inv where
  memory := Memory.ofFont_wf s.cfg.font
  faultRecord := rfl
  addresses _ := ⟨programStart_le, fun k hk => absurd hk (Nat.not_lt_zero k)⟩

theorem loadProgram_keeps_Inv {bytes : List Byte} (hinv : s.Inv) (h : s.loadProgram bytes = .next t) : t.Inv := by
  cases hh : s.halted with
  | true => cases (State.loadProgram_of_halted hh).symm.trans h
  | false =>
    obtain rfl | rfl := loadProgram_outcome hh h
    · exact Inv_takeFault s _ _ _
    · exact ⟨Memory.writeBlock_wf _ _ hinv.memory, hinv.faultRecord,
        fun _ => ⟨programStart_le, (hinv.addresses hh).2⟩⟩

theorem setKeyState_keeps_Inv {k : Nat} {p : Bool} (hinv : s.Inv) (h : s.setKeyState k p = .next t) : t.Inv := by
  obtain hle | hgt := le_or_gt k 15
  · cases (State.setKeyState_of_le p hle).symm.trans h
    exact ⟨hinv.memory, hinv.faultRecord, hinv.addresses⟩
  · cases (State.setKeyState_of_gt p hgt).symm.trans h

theorem stepCycle_keeps_Inv (hinv : s.Inv) (h : hostMove .stepCycle s = .next t) : t.Inv := by
  simp only [hostMove] at h
  split at h
  · cases h
    exact hinv
  · exact step_keeps_Inv hinv h

end invariant

end Sys2Proof.Machine

open Sys2Proof Sys2Proof.Machine Sys2Proof.Statements

/-- Settles O15, by the three ends of a cycle: a fault leaves a canonical memory, a record and nothing in range to show;
a completed cycle leaves the addresses its fetch and its instruction's own check bound. -/
theorem stepKeepsStateInvariant : Obligations.StepKeepsStateInvariant :=
  fun _ _ => step_keeps_Inv

/-- Settles O17, move by move. -/
theorem hostMovesKeepStateInvariant : Obligations.HostMovesKeepStateInvariant := by
  intro m s t hinv h
  cases m with
  | reset =>
    cases h
    exact Inv_initializeCore s
  | loadProgram bytes => exact loadProgram_keeps_Inv hinv h
  | stepCycle => exact stepCycle_keeps_Inv hinv h
  | setKeyState key pressed => exact setKeyState_keeps_Inv hinv h
  | present =>
    cases h
    exact hinv

/-- Settles O16: nothing is listed in memory, nothing recorded, and `pc` is 0x200 over an empty stack. -/
theorem resetHasStateInvariant : Obligations.ResetHasStateInvariant :=
  ⟨rfl, rfl, fun _ => ⟨programStart_le, fun k hk => absurd hk (Nat.not_lt_zero k)⟩⟩

/-- Settles O27: `pc` moves by 0, 2 or 4, to 2 above an even entry, or to a target assumed even; a call pushes P. -/
theorem evenPcKeptBySequentialCode : Obligations.EvenPcKeptBySequentialCode := by
  intro i s t h ht hpc hstack hjump hindexed
  obtain ⟨hsafe, rfl⟩ := exec_completes h ht
  exact ⟨completed_pc_even hsafe hpc hstack hjump hindexed,
    completed_stack_forall (p := fun w => w.toNat % 2 = 0) hsafe hpc hstack⟩

/-- Settles O32: the return pops the entry that the call stored at the old SP. -/
theorem callThenReturnRestores : Obligations.CallThenReturnRestores := by
  refine fun nnn s hroom => ⟨_, exec_call_of_lt nnn hroom, fun u hsp hentry => ?_⟩
  have husp : u.sp.val = s.sp.val + 1 := (congrArg Fin.val hsp).trans (s.push_sp_val s.pc hroom)
  have hpop : u.pop.sp.val = s.sp.val := by rw [u.pop_sp_val, husp, Nat.add_sub_cancel]
  have hpushed : u.stackAt s.sp.val = s.pc := by
    rw [hentry, State.stackAt_jumpTo, State.stackAt_push s s.pc hroom, if_pos rfl]
  refine ⟨_, exec_ret_of_pos (husp ▸ Nat.succ_pos _), ?_, Fin.ext hpop⟩
  rw [State.jumpTo_pc, hpop, hpushed]

/-- Settles O54: the reset record's values; the bytes memory reads as are the default `FONT` and 0 above it. -/
theorem resetValues : Obligations.ResetValues := by
  refine ⟨fun x => Vector.getElem_replicate x.isLt, rfl, rfl, rfl, fun k => ?_, rfl, rfl, rfl, fun a ha => ?_,
    fun a ha => resetByte_of_le ha, rfl, rfl, rfl, rfl, fun k => ?_, fun c r => ?_, rfl, rfl, rfl, rfl, rfl⟩
  · exact State.stackAt_initializeCore State.reset k
  · exact List.getD_eq_getElem defaultFontBytes 0#8 ha
  · have hkey : State.reset.key = Vector.replicate 16 false := rfl
    rw [State.isPressed, hkey, Vector.getElem?_replicate]
    split <;> rfl
  · exact Framebuffer.get_clear c r

end

section
/-! PROOF. The sprite draw (R163 to R169): the pixels of a sprite as the statements cover them, one draw and two. -/

namespace Sys2Proof.Machine

open Statements

/-! ### The pixels of a sprite (R166) -/

section pixels
variable {cx row : Nat} {bits : Byte} {c : Fin 64} {r : Fin 32}

theorem mem_rowPixels_iff : (c, r) ∈ rowPixels cx row bits ↔
    ∃ b < 8, bits.getLsbD b = true ∧ c.val = (cx + (7 - b)) % 64 ∧ r.val = row % 32 := by
  have hbit (b : Nat) : b ∈ [7, 6, 5, 4, 3, 2, 1, 0] ↔ b < 8 := by
    simp only [List.mem_cons, List.not_mem_nil, or_false]
    omega
  simp only [rowPixels, List.mem_map, List.mem_filter, hbit, Prod.mk.injEq, Fin.ext_iff, Fin.val_ofNat,
    and_assoc, eq_comm]

theorem mem_spritePixels_iff : ∀ {cy : Nat} {sprite : List Byte}, (c, r) ∈ spritePixels cx cy sprite ↔
    ∃ k b : Nat, ∃ bits ∈ sprite[k]?, b < 8 ∧ bits.getLsbD b = true ∧ c.val = (cx + (7 - b)) % 64 ∧
      r.val = (cy + k) % 32
  | _, [] => by simp [spritePixels]
  | cy, first :: rest => by
    rw [spritePixels, List.mem_append, mem_rowPixels_iff, mem_spritePixels_iff]
    constructor
    · rintro (⟨b, hb⟩ | ⟨k, b, bits, hbits, hb, hset, hc, hr⟩)
      · exact ⟨0, b, first, rfl, hb⟩
      · exact ⟨k + 1, b, bits, hbits, hb, hset, hc, by rw [hr]; congr 1; omega⟩
    · rintro ⟨_ | k, b, bits, hbits, hb, hset, hc, hr⟩
      · obtain rfl : first = bits := Option.some.inj hbits
        exact .inl ⟨b, hb, hset, hc, hr⟩
      · exact .inr ⟨k, b, bits, hbits, hb, hset, hc, by rw [hr]; congr 1; omega⟩

end pixels

/-! ### One draw (R164, R167) -/

section draw
variable {s t : State} {x y n : Nibble} {c : Fin 64} {r : Fin 32}

theorem Memory.readBlock_getElem? (m : Memory) (a n k : Nat) (b : Byte) :
    (Memory.readBlock m a n)[k]? = some b ↔ k < n ∧ Memory.read m (a + k) = b := by
  simp only [List.getElem?_eq_some_iff, Memory.readBlock_getElem, Memory.readBlock_length, exists_prop]

/-- The pixels the compositor turns are those the sprite covers. -/
theorem mem_spritePixels_iff_spriteCovers :
    (c, r) ∈ spritePixels (s.spriteCol x) (s.spriteRow y) (s.spriteFetch n) ↔ spriteCovers s x y n c r := by
  simp only [mem_spritePixels_iff, State.spriteFetch, Option.mem_def, Memory.readBlock_getElem?, spriteCovers,
    State.spriteCol, State.spriteRow]
  constructor
  · rintro ⟨k, b, bits, ⟨hk, rfl⟩, hb, hset, hc, hr⟩
    exact ⟨k, b, hk, hb, hset, hc, hr⟩
  · rintro ⟨k, b, hk, hb, hset, hc, hr⟩
    exact ⟨k, b, _, ⟨hk, rfl⟩, hb, hset, hc, hr⟩

theorem spriteFetch_length_le (s : State) (n : Nibble) : (s.spriteFetch n).length ≤ 32 := by
  have := n.isLt
  simp only [State.spriteFetch, Memory.readBlock_length]
  omega

theorem get_drawSprite_of_covers (h : spriteCovers s x y n c r) :
    Framebuffer.get (s.drawSprite x y n).1 c r = !Framebuffer.get s.fb c r := by
  rw [State.drawSprite, Framebuffer.get_draw _ _ _ _ (spriteFetch_length_le s n)]
  simp [mem_spritePixels_iff_spriteCovers.mpr h]

theorem get_drawSprite_of_not_covers (h : ¬spriteCovers s x y n c r) :
    Framebuffer.get (s.drawSprite x y n).1 c r = Framebuffer.get s.fb c r := by
  rw [State.drawSprite, Framebuffer.get_draw _ _ _ _ (spriteFetch_length_le s n)]
  simp [mem_spritePixels_iff_spriteCovers.not.mpr h]

theorem drawSprite_collision :
    (s.drawSprite x y n).2 = true ↔ ∃ c r, spriteCovers s x y n c r ∧ Framebuffer.get s.fb c r = true := by
  rw [State.drawSprite, Framebuffer.draw_collision _ _ _ _ (spriteFetch_length_le s n), List.any_eq_true, Prod.exists]
  simp only [mem_spritePixels_iff_spriteCovers]

theorem completed_drw_fb : (completed (.drw x y n) s).fb = (s.drawSprite x y n).1 := rfl

theorem completed_drw_flag : (completed (.drw x y n) s).getV 0xF#4 = flagByte (s.drawSprite x y n).2 := by
  simp [completed, flagReg]

theorem completed_drw_getV {k : Nibble} (hk : k ≠ 0xF#4) : (completed (.drw x y n) s).getV k = s.getV k :=
  completed_getV hk

/-! ### Two draws (R169) -/

/-- The first draw moves neither the sprite nor, unless VF is a coordinate, its place. -/
theorem spriteCovers_completed_drw (hx : x ≠ 0xF#4) (hy : y ≠ 0xF#4) :
    spriteCovers (completed (.drw x y n) s) x y n c r ↔ spriteCovers s x y n c r := by
  have hi : (completed (.drw x y n) s).i = s.i := rfl
  have hmem : (completed (.drw x y n) s).mem = s.mem := rfl
  rw [spriteCovers, completed_drw_getV hx, completed_drw_getV hy, hi, hmem, spriteCovers]

/-- A covered pixel is turned twice, any other not at all. -/
theorem drw_twice_fb (hx : x ≠ 0xF#4) (hy : y ≠ 0xF#4) :
    (completed (.drw x y n) (completed (.drw x y n) s)).fb = s.fb := by
  refine Framebuffer.ext_get fun c r => ?_
  by_cases hcov : spriteCovers s x y n c r
  · rw [completed_drw_fb, get_drawSprite_of_covers ((spriteCovers_completed_drw hx hy).mpr hcov), completed_drw_fb,
      get_drawSprite_of_covers hcov, Bool.not_not]
  · rw [completed_drw_fb, get_drawSprite_of_not_covers ((spriteCovers_completed_drw hx hy).not.mpr hcov),
      completed_drw_fb, get_drawSprite_of_not_covers hcov]

/-- The second draw collides on the covered pixels that the first turned on. -/
theorem drawSprite_completed_drw_collision (hx : x ≠ 0xF#4) (hy : y ≠ 0xF#4) :
    ((completed (.drw x y n) s).drawSprite x y n).2 = true ↔
      ∃ c r, spriteCovers s x y n c r ∧ Framebuffer.get s.fb c r = false := by
  rw [drawSprite_collision]
  refine exists_congr fun c => exists_congr fun r => ?_
  rw [spriteCovers_completed_drw hx hy]
  refine and_congr_right fun hcov => ?_
  rw [completed_drw_fb, get_drawSprite_of_covers hcov, Bool.not_eq_true']

end draw

end Sys2Proof.Machine

open Sys2Proof Sys2Proof.Machine Sys2Proof.Statements

/-- Settles O42: the compositor turns each covered pixel once, and a collision is a covered pixel that was on. -/
theorem drawSpriteResult : Obligations.DrawSpriteResult := by
  refine ⟨fun _ => decodesBy_of_family 0xD#4 fun _ => decodeWord_familyD, fun x y n s hfits =>
    ⟨_, exec_drw_of_fits hfits, fun c r => get_drawSprite_of_covers, fun c r => get_drawSprite_of_not_covers,
      fun hcol => ?_, fun hcol => ?_, fun k hk => completed_drw_getV hk, rfl, rfl⟩⟩
  · rw [completed_drw_flag, drawSprite_collision.mpr hcol]
    rfl
  · rw [completed_drw_flag, Bool.eq_false_iff.mpr fun hset => hcol (drawSprite_collision.mp hset)]
    rfl

/-- Settles O43: the sprite stays in memory and in place, so the second draw turns the same pixels back. -/
theorem drawTwiceRestoresDisplay : Obligations.DrawTwiceRestoresDisplay := by
  refine fun x y n s hx hy hfits => ⟨_, _, exec_drw_of_fits hfits, exec_drw_of_fits hfits, drw_twice_fb hx hy,
    fun hoff => ?_, fun hon => ?_⟩
  · rw [completed_drw_flag, (drawSprite_completed_drw_collision hx hy).mpr hoff]
    rfl
  · have hnone : ¬∃ c r, spriteCovers s x y n c r ∧ Framebuffer.get s.fb c r = false := by
      rintro ⟨c, r, hcov, hoff⟩
      exact Bool.noConfusion ((hon c r hcov).symm.trans hoff)
    rw [completed_drw_flag,
      Bool.eq_false_iff.mpr fun hset => hnone ((drawSprite_completed_drw_collision hx hy).mp hset)]
    rfl

end

section
/-! PROOF. What a register dump leaves for a later load (R191) and for a later fetch (R84, R241). -/

namespace Sys2Proof.Machine

variable {x : Nibble} {s : State}

/-- `Annn` with the old I reaches every address below 0x1000. -/
theorem addrOperand_setWidth {w : Word} (h : w.toNat ≤ 0xFFF) : addrOperand (w.setWidth 12) = w := by
  refine BitVec.eq_of_toNat_eq ?_
  rw [addrOperand_toNat, BitVec.toNat_setWidth]
  omega

theorem State.indexAfterBlock_congr {u : State} (h : u.i = s.i) : u.indexAfterBlock x = s.indexAfterBlock x := by
  rw [State.indexAfterBlock, h, State.indexAfterBlock]

theorem completed_ldVxMem_mem : (completed (.ldVxMem x) s).mem = s.mem := by
  simp [completed]

theorem completed_ldMemVx_read (hm : Memory.wf s.mem = true) (hfits : s.i.toNat + x.toNat ≤ 0xFFF) {k : Nibble}
    (hk : k.toNat ≤ x.toNat) : Memory.read (completed (.ldMemVx x) s).mem (s.i.toNat + k.toNat) = s.getV k :=
  Memory.read_writeBlock_regBytes hm hfits hk

theorem completed_ldVxMem_getV {k : Nibble} (hk : k.toNat ≤ x.toNat) :
    (completed (.ldVxMem x) s).getV k = Memory.read s.mem (s.i.toNat + k.toNat) := by
  simp [completed, State.getV_loadRegs, hk]

end Sys2Proof.Machine

open Sys2Proof Sys2Proof.Machine Sys2Proof.Statements

/-- Settles O53: the load reads back the block the dump wrote, at the same I. -/
theorem dumpThenLoadRestoresRegisters : Obligations.DumpThenLoadRestoresRegisters := by
  intro x s hm hfits
  have hi : (completed (.ldINnn (s.i.setWidth 12)) (completed (.ldMemVx x) s)).i = s.i :=
    addrOperand_setWidth (Nat.le_of_add_right_le hfits)
  refine ⟨completed (.ldMemVx x) s, completed (.ldINnn (s.i.setWidth 12)) (completed (.ldMemVx x) s), _,
    exec_ldMemVx_of_fits hfits, rfl, exec_ldVxMem_of_fits ?_, fun k hk => ?_, completed_ldVxMem_mem,
    State.indexAfterBlock_toNat hfits, State.indexAfterBlock_congr hi⟩
  · rw [hi]
    exact hfits
  · refine (completed_ldVxMem_getV hk).trans ?_
    rw [hi]
    exact completed_ldMemVx_read hm hfits hk

/-- Settles O58: V0 and V1 are the bytes the dump wrote at I and I + 1. -/
theorem storedWordIsFetchedNext : Obligations.StoredWordIsFetchedNext := by
  refine fun x s hm hx hfits => ⟨_, exec_ldMemVx_of_fits hfits, rfl, fun u hmem hpc => ?_⟩
  rw [State.fetchWord, hmem, hpc]
  exact congrArg₂ wordOfBytes (completed_ldMemVx_read hm hfits (k := 0#4) (Nat.zero_le _))
    (completed_ldMemVx_read hm hfits (k := 1#4) hx)

end
